-- ==== Sys2Proof/Word.lean ====
section
/-! DEFINITION. The fixed widths of the GCM-128 core (00_scope.md R5, R6). -/

namespace Sys2Proof

/-- One byte of BUF or of a block (R6). -/
abbrev Byte := BitVec 8

/-- A host-bus word, a command word, a descriptor register (R5). -/
abbrev Word := BitVec 32

/-- A block, the tag and every 128-bit register (R5, R6): bit 127 is the first, leftmost bit. -/
abbrev Block := BitVec 128

/-- A byte offset in the host window: the pin `h_addr[16:0]` (R34, R105). -/
abbrev Offset := BitVec 17

end Sys2Proof
end

