-- ==== Sys2Proof/Syntax.lean ====
section
/-! DEFINITION. The command words, one constructor per row of spec/opcode_table.json (30_encoding.md R46, R47, R49). -/

namespace Sys2Proof

/-- The decoded command (R47). Commands have no encoded operands (R48); the reserved words keep the bits that tell
them apart, so that no bit of the word is lost. -/
inductive Instr where
  /-- GFMUL, 0x00000001 (R51). -/
  | gfmul
  /-- INCR, 0x00000002 (R72). -/
  | incr
  /-- GHASH, 0x00000003 (R64). -/
  | ghash
  /-- Y0DERIVE, 0x00000004 (R65). -/
  | y0derive
  /-- ENCRYPT, 0x00000005 (R80). -/
  | encrypt
  /-- DECRYPT, 0x00000006 (R81). -/
  | decrypt
  /-- CLEAR, 0x00000007 (R90). -/
  | clear
  /-- The reserved word 0x00000000 (R49, R91). -/
  | illegalOp0
  /-- A reserved word with RSV = 0 and OP = 0x8 to 0xF (R49, R91). -/
  | illegalOp8F (op : BitVec 4)
  /-- A reserved word with RSV != 0, whatever OP (R49, R91). -/
  | illegalRsv (op : BitVec 4) (rsv : BitVec 28)
deriving DecidableEq, Repr

end Sys2Proof
end

