-- ==== Sys2Proof/WellFormed.lean ====
section
/-! DEFINITION. Which terms of Instr stand for a command word (30_encoding.md R47, R49). -/

namespace Sys2Proof

/-- A reserved row's fields must select that row: OP at least 8 for ILLEGAL_OP8_F, RSV not 0 for ILLEGAL_RSV (R49). -/
def Instr.wf : Instr → Bool
  | .gfmul => true
  | .incr => true
  | .ghash => true
  | .y0derive => true
  | .encrypt => true
  | .decrypt => true
  | .clear => true
  | .illegalOp0 => true
  | .illegalOp8F op => decide (8 ≤ op.toNat)
  | .illegalRsv _ rsv => decide (rsv ≠ 0)

end Sys2Proof
end

