-- ==== Sys2Proof/Decode.lean ====
section
/-! DEFINITION. Decoding CMDL, and the encoder (30_encoding.md R46, R47, R49). -/

namespace Sys2Proof

/-- OP, bits 3:0 of the command word (R46). -/
def opField (w : Word) : BitVec 4 := w.extractLsb' 0 4

/-- RSV, bits 31:4 of the command word (R46). -/
def rsvField (w : Word) : BitVec 28 := w.extractLsb' 4 28

/-- The opcode map for a word whose RSV is 0 (R47). -/
def decodeOp (op : BitVec 4) : Instr :=
  match op.toNat with
  | 0 => .illegalOp0
  | 1 => .gfmul
  | 2 => .incr
  | 3 => .ghash
  | 4 => .y0derive
  | 5 => .encrypt
  | 6 => .decrypt
  | 7 => .clear
  | _ => .illegalOp8F op

/-- The decoding of CMDL at the completion step: a word with RSV != 0 is reserved whatever its OP, otherwise OP selects
(R47). Every word decodes: a reserved word is a row of its own, whose meaning raises ILLEGAL_COMMAND (R49). -/
def decode (w : Word) : Instr :=
  if rsvField w ≠ 0 then .illegalRsv (opField w) (rsvField w) else decodeOp (opField w)

/-- Why a byte sequence is no command word. -/
inductive DecodeError where
  /-- A command is one 32-bit word and has no other length (R46); the sequence has `len` bytes. Safe: nothing runs. -/
  | notOneWord (len : Nat)
deriving DecidableEq, Repr

/-- The command in four bytes, the first in bits 31:24 as on the host bus (R35, R44, R46; log 24). -/
def decodeBytes : List Byte → Except DecodeError Instr
  | [b0, b1, b2, b3] => .ok (decode (b0 ++ b1 ++ b2 ++ b3))
  | bs => .error (.notOneWord bs.length)

/-- The bytes of a command word in host-bus order (R35, R44). -/
def wordBytes (w : Word) : List Byte :=
  [w.extractLsb' 24 8, w.extractLsb' 16 8, w.extractLsb' 8 8, w.extractLsb' 0 8]

/-- The command word of an instruction: RSV in bits 31:4, OP in bits 3:0 (R46, R47). -/
def encode : Instr → Word
  | .gfmul => 0x00000001
  | .incr => 0x00000002
  | .ghash => 0x00000003
  | .y0derive => 0x00000004
  | .encrypt => 0x00000005
  | .decrypt => 0x00000006
  | .clear => 0x00000007
  | .illegalOp0 => 0x00000000
  | .illegalOp8F op => (0 : BitVec 28) ++ op
  | .illegalRsv op rsv => rsv ++ op

/-- The host's question: the instruction in a word of `nbits` bits, as the opcode table numbers them. A command word has
32 bits and no other length (R46). -/
def decodeTableWord (nbits w : Nat) : Option Instr :=
  if nbits ≤ 32 ∧ w < 2 ^ 32 then
    match decodeBytes (wordBytes (BitVec.ofNat 32 w)) with
    | .ok i => some i
    | .error _ => none
  else none

end Sys2Proof
end

