-- ==== Sys2Proof/Config.lean ====
section
/-! DEFINITION. The parameters the platform fixes and the free values (00_scope.md R4, 93_implementation_defined.md).
Every one is opaque: no proof sees a value of it, so a statement about it holds for every value.
BUF_BYTES is a parameter too; it is a field of State (log 5). -/

namespace Sys2Proof

/-- The external block cipher under key number `key` (R4, R104, U19; log 7): any total function of the block. -/
opaque Config.cipher (key : Nat) (b : Block) : Block

/-- CORE_BASE, where the window sits in the host's address space (R34, U18; log 6). -/
opaque Config.coreBase : Nat

/-- The byte BUF holds at offset `a` where nothing has been written since the reset that made draw `d` (R110, R114, U1, U2; log 4). -/
opaque Config.bufByte (d a : Nat) : Byte

/-- What a host read of BUF, RES or TAG returns while BUSY = 1, draw `d` (R42, U3; log 9). -/
opaque Config.busyRead (d : Nat) : Word

/-- What a host read returns in a cycle with rst = 1, draw `d` (R111, U9; log 10). -/
opaque Config.resetRead (d : Nat) : Word

/-- The pins `c_din` while `c_req` = 0 (R110, U11; log 17). -/
opaque Config.idleDin (d : Nat) : Block

/-- Byte `k` a command writes to BUF if the cipher was rekeyed in its BUSY window, draw `d` (R104, U7; log 11). -/
opaque Config.rekeyByte (d k : Nat) : Byte

/-- Word `k` CLEAR writes to a descriptor if the cipher was rekeyed in its BUSY window, draw `d` (R104; log 11). -/
opaque Config.rekeyWord (d k : Nat) : Word

/-- Block `k` a command writes to a 128-bit register if the cipher was rekeyed in its BUSY window, draw `d`: 0 for RES, 1
for TAG, 2 for OPA, 3 for OPB (R104, U7; log 11). -/
opaque Config.rekeyBlock (d k : Nat) : Block

/-- What a command writes to AUTHOK if the cipher was rekeyed in its BUSY window, draw `d` (R104, U7; log 11). -/
opaque Config.rekeyAuthOk (d : Nat) : Bool

/-- What a command writes to AUTHFAIL if the cipher was rekeyed in its BUSY window, draw `d`, unless AUTHOK is set
(R18, R104, U7; log 11). -/
opaque Config.rekeyAuthFail (d : Nat) : Bool

end Sys2Proof
end

