-- ==== Sys2Proof/Machine/State.lean ====
section
/-! DEFINITION. The state of the core as plain data, the ways a step can stop, and the state after reset
(10_state.md, 60_exceptions.md R104 and R105, 70_reset_and_hazards.md R110). -/

namespace Sys2Proof.Machine

/-- STATUS.ERR (10_state.md R18, 60_exceptions.md R96). Codes 6 to 15 are never produced (U13), so they have no
constructor. -/
inductive ErrCode where
  /-- 0, NONE. -/
  | noError
  /-- 1, ILLEGAL_COMMAND: CMDL is a reserved word. -/
  | illegalCommand
  /-- 2, INVALID_BLOCK_SIZE: CBSZL is not 16. -/
  | invalidBlockSize
  /-- 3, INVALID_IV_LENGTH: IV_LEN = 0. -/
  | invalidIvLength
  /-- 4, REGION: a region the command uses is invalid. -/
  | region
  /-- 5, OVERLAP: OUT overlaps IV, AAD or IN. -/
  | overlap
deriving DecidableEq, Repr

/-- The stored fields of STATUS (R18). BUSY is not among them: it is SEQ (R25). -/
structure Status where
  done : Bool
  authOk : Bool
  authFail : Bool
  err : ErrCode
  wbusy : Bool
  accerr : Bool
deriving DecidableEq, Repr

/-- The hidden registers of 10_state.md R23. -/
structure Hidden where
  hI : Block
  y0I : Block
  ctrI : Block
  xI : Block
  sI : Block
  ksI : Block
  tcI : Block
deriving DecidableEq, Repr

/-- Every hidden register at 0, as at reset and after every completion step (R23). -/
def Hidden.zero : Hidden := ⟨0, 0, 0, 0, 0, 0, 0⟩

/-- SEQ, the sequencer state (R25). -/
inductive Seq where
  | idle
  | busy
deriving DecidableEq, Repr

/-- Which function `Cipher : Block -> Block` the external cipher computes (R4, R104; log 7): the answers listed in
`known`, and the opaque function of key number `key` on every other block. -/
structure CipherUnit where
  key : Nat
  known : List (Block × Block)
deriving DecidableEq, Repr

/-- One access of the host port: `h_sel` = 1, with `h_we` = 0 or 1 (R36, R105). -/
inductive Access where
  | read (off : Offset)
  | write (off : Offset) (w : Word)
deriving DecidableEq, Repr

/-- What makes the next step: one of the agents of 20_memory.md R39 and 60_exceptions.md R104, or a pin (R105; log 1). -/
inductive Event where
  /-- The host makes one access. -/
  | host (a : Access)
  /-- The engine makes its next move: a cipher request, or the completion step (R26, R104). -/
  | engine
  /-- The cipher raises `c_ack` for one cycle, with `c_dout = Cipher(c_din)` (R104). -/
  | cipherAck
  /-- The cipher reports another block size on `c_bsz` (R21, R104). In a BUSY window the report stays as it is (R42;
  DEDUCED, log 26). -/
  | blockSize (v : Byte)
  /-- The platform keys the cipher, outside the core (R104, R116): `Cipher` is `u` from here on. -/
  | setKey (u : CipherUnit)
  /-- A cycle with `rst` = 1, and the host access made during it (R110, R111). -/
  | reset (during : Option Access)
deriving DecidableEq, Repr

/-- BUF as the bytes written since the last reset: addresses strictly rising. An unlisted address holds no written value
(log 4). -/
abbrev Memory := List Host.Cell

/-- Everything the spec gives the core, and the model's own fields at the end (INVENTORY.md, State). -/
structure State where
  /-- BUF_BYTES = 2^(8 + bufLog): a power of two from 256 to 65536 (R4; log 5). -/
  bufLog : Fin 9
  /-- STATUS but for BUSY (R18). -/
  status : Status
  ivAddr : Word
  ivLen : Word
  aadAddr : Word
  aadLen : Word
  inAddr : Word
  inLen : Word
  outAddr : Word
  opa : Block
  opb : Block
  res : Block
  tag : Block
  /-- H_I, Y0_I, CTR_I, X_I, S_I, KS_I, TC_I (R23). -/
  hidden : Hidden
  /-- CMDL, the command word latched at issue (R24). -/
  cmdl : Word
  /-- CBSZL, the block size latched at issue (R24). -/
  cbszl : Byte
  /-- SEQ; STATUS.BUSY = 1 exactly when it is busy (R25). -/
  seq : Seq
  /-- BUF (R30). -/
  buf : Memory
  /-- The cipher port's outputs: `c_req` = 0, or `c_req` = 1 with `c_din` (R104). -/
  cReq : Option Block
  /-- The input pins `c_bsz` (R104; log 8). -/
  cBsz : Byte
  /-- The output pins `h_rdata`, valid in the cycle after a read access and in no other (R105; log 16). -/
  hRdata : Option Word
  /-- The external cipher's function at present (log 7). The model's own. -/
  cipher : CipherUnit
  /-- How many cipher calls of the running command have been answered (R84, R104; log 14). The model's own. -/
  served : Nat
  /-- The cipher was rekeyed in this BUSY window (R104, U7; log 11). The model's own. -/
  rekeyed : Bool
  /-- Which free value the unwritten bytes of BUF are (U1; log 4). The model's own. -/
  bufDraw : Nat
  /-- How many free values have been drawn (log 9). The model's own. -/
  draws : Nat
  /-- What makes the next steps, in order (log 1). The model's own. -/
  events : List Event
deriving DecidableEq, Repr

/-- Why the machine stops with a fault. The spec gives no behaviour that stops the core: errors end a command and the
core goes on (R95, R100), refused accesses set a flag (R101), and a silent cipher leaves the engine BUSY (U5). So no
constructor stands here, and no step faults (log 19). -/
inductive Fault where
deriving DecidableEq, Repr

/-- Why an instruction has no meaning. -/
inductive Refusal where
  /-- Raised by an arm of exec whose instruction has no meaning yet. No arm does so in this model. Safe. -/
  | notModelled (mnemonic : String)
deriving DecidableEq, Repr

/-- The state right after reset (70_reset_and_hazards.md R110). BUF_BYTES (log 5), the pins `c_bsz` (log 8), the
external cipher (log 7) and the model's own counters (logs 4, 9) are DESIGN CHOICE. -/
def State.reset : State where
  bufLog := 0
  status := ⟨false, false, false, .noError, false, false⟩
  ivAddr := 0
  ivLen := 0
  aadAddr := 0
  aadLen := 0
  inAddr := 0
  inLen := 0
  outAddr := 0
  opa := 0
  opb := 0
  res := 0
  tag := 0
  hidden := Hidden.zero
  cmdl := 0
  cbszl := 0
  seq := .idle
  buf := []
  cReq := none
  cBsz := 16
  hRdata := none
  cipher := ⟨0, []⟩
  served := 0
  rekeyed := false
  bufDraw := 0
  draws := 1
  events := []

end Sys2Proof.Machine
end

