-- ==== Sys2Proof/Machine/Flags.lean ====
section
/-! DEFINITION. STATUS: its error codes, its word, and the operations that set and clear its fields
(10_state.md R18, R19, R25, 60_exceptions.md R96). -/

namespace Sys2Proof.Machine

/-- The number of an error code (R96). -/
def ErrCode.code : ErrCode → BitVec 4
  | .noError => 0
  | .illegalCommand => 1
  | .invalidBlockSize => 2
  | .invalidIvLength => 3
  | .region => 4
  | .overlap => 5

/-- STATUS.BUSY = 1 exactly when SEQ = BUSY (R25). -/
def State.isBusy (s : State) : Bool := decide (s.seq = .busy)

/-- The STATUS word (R18): bits 31:10 read 0. -/
def Status.word (st : Status) (busy : Bool) : Word :=
  (0 : BitVec 22) ++ BitVec.ofBool st.accerr ++ BitVec.ofBool st.wbusy ++ st.err.code ++
    BitVec.ofBool st.authFail ++ BitVec.ofBool st.authOk ++ BitVec.ofBool st.done ++ BitVec.ofBool busy

/-- What a host read of STATUS returns (R18). -/
def State.statusWord (s : State) : Word := s.status.word s.isBusy

/-- DONE, AUTHOK, AUTHFAIL and ERR cleared, as at issue (R25) and by the W1C of DONE (R19). -/
def Status.clearOutcome (st : Status) : Status :=
  { st with done := false, authOk := false, authFail := false, err := .noError }

/-- A host write of `w` to STATUS (R19). -/
def Status.writeOneToClear (st : Status) (busy : Bool) (w : Word) : Status :=
  let st1 := if w.getLsbD 1 && !busy then st.clearOutcome else st
  { st1 with wbusy := st.wbusy && !w.getLsbD 8, accerr := st.accerr && !w.getLsbD 9 }

/-- A refused access sets ACCERR (R36, R37). -/
def State.setAccerr (s : State) : State := { s with status := { s.status with accerr := true } }

/-- A write dropped during the BUSY window sets WBUSY (R43). -/
def State.setWbusy (s : State) : State := { s with status := { s.status with wbusy := true } }

/-- AUTHOK and AUTHFAIL take these values (R51, R80, R81; log 15). -/
def State.setAuth (s : State) (ok fail : Bool) : State :=
  { s with status := { s.status with authOk := ok, authFail := fail } }

end Sys2Proof.Machine
end

