-- ==== Sys2Proof/Machine/Operands.lean ====
section
/-! DEFINITION. Operand forms: byte sequences and blocks (00_scope.md R6, R8), words of a 128-bit register (10_state.md
R11), regions (20_memory.md R31, R32), and what a window offset names (10_state.md R10, 20_memory.md R34 to R37). -/

namespace Sys2Proof.Machine

/-- `block(s)` for 16 bytes: byte 0 becomes the most significant byte (R6, R8). -/
def blockOf (s : List Byte) : Block := s.foldl (fun acc b => (acc <<< 8) ||| b.zeroExtend 128) 0

/-- Byte k of a block is `b[127-8k : 120-8k]` (R6). -/
def blockByte (b : Block) (k : Nat) : Byte := b.extractLsb' (120 - 8 * k) 8

/-- `bytes(b)`, byte 0 first (R8). -/
def bytesOf (b : Block) : List Byte := (List.range 16).map (blockByte b)

/-- `pad16(s)`: a chunk of 1 to 16 bytes, then zero bytes (R8). -/
def pad16 (s : List Byte) : Block := blockOf (s ++ List.replicate (16 - s.length) 0)

/-- `trunc(b, u)`, the first u bytes (R8). -/
def trunc (b : Block) (u : Nat) : List Byte := (bytesOf b).take u

/-- `xorbytes(s, t)` (R8). -/
def xorbytes (s t : List Byte) : List Byte := List.zipWith (· ^^^ ·) s t

/-- The first `n` chunks of 16 bytes (or what is left) of a sequence. -/
def chunksN : Nat → List Byte → List (List Byte)
  | 0, _ => []
  | n + 1, s => s.take 16 :: chunksN n (s.drop 16)

/-- ceil(len / 16), how many chunks a sequence of `len` bytes has (R8, R84). -/
def chunkCount (len : Nat) : Nat := (len + 15) / 16

/-- `chunks(s)`: 16 bytes each, the last 1 to 16 bytes, none for the empty sequence (R8). -/
def chunks (s : List Byte) : List (List Byte) := chunksN (chunkCount s.length) s

/-- The word at base + 4j of a 128-bit register: `R[127-32j : 96-32j]` (R11). -/
def blockWord (b : Block) (j : Fin 4) : Word := b.extractLsb' (96 - 32 * j.val) 32

/-- A host write of one word changes only those 32 bits of the register (R11). -/
def setBlockWord (b : Block) (j : Fin 4) (w : Word) : Block :=
  (if j = 0 then w else blockWord b 0) ++ (if j = 1 then w else blockWord b 1) ++
    (if j = 2 then w else blockWord b 2) ++ (if j = 3 then w else blockWord b 3)

/-- BUF_BYTES (R4, R17). -/
def State.bufBytes (s : State) : Nat := 2 ^ (8 + s.bufLog.val)

/-- `valid(a, n)` on unbounded integers (R32). -/
def regionValid (bufBytes : Nat) (a n : Word) : Bool :=
  decide (n = 0) || decide (a.toNat + n.toNat ≤ bufBytes)

/-- `overlap(a1, n1, a2, n2)` on unbounded integers (R32). -/
def regionOverlap (a1 n1 a2 n2 : Word) : Bool :=
  decide (0 < n1.toNat) && decide (0 < n2.toNat) && decide (a1.toNat < a2.toNat + n2.toNat) &&
    decide (a2.toNat < a1.toNat + n1.toNat)

/-- A 32-bit word of the register file (R10). -/
inductive Reg where
  | id
  | bufsz
  | cmd
  | status
  | cbsz
  | ivAddr
  | ivLen
  | aadAddr
  | aadLen
  | inAddr
  | inLen
  | outAddr
  | opa (j : Fin 4)
  | opb (j : Fin 4)
  | res (j : Fin 4)
  | tag (j : Fin 4)
deriving DecidableEq, Repr

/-- The 32-bit registers' offsets (R10). -/
def wordRegMap : List (Nat × Reg) :=
  [(0x000, Reg.id), (0x004, Reg.bufsz), (0x008, Reg.cmd), (0x00C, Reg.status), (0x010, Reg.cbsz),
   (0x020, Reg.ivAddr), (0x024, Reg.ivLen), (0x028, Reg.aadAddr), (0x02C, Reg.aadLen),
   (0x030, Reg.inAddr), (0x034, Reg.inLen), (0x038, Reg.outAddr)]

/-- The four words of a 128-bit register at base+0, base+4, base+8 and base+12 (R11). -/
def blockRegMap (base : Nat) (reg : Fin 4 → Reg) : List (Nat × Reg) :=
  (List.finRange 4).map fun j => (base + 4 * j.val, reg j)

/-- The register map (R10). -/
def regMap : List (Nat × Reg) :=
  wordRegMap ++ blockRegMap 0x040 Reg.opa ++ blockRegMap 0x050 Reg.opb ++ blockRegMap 0x060 Reg.res ++
    blockRegMap 0x070 Reg.tag

/-- What a window offset names. -/
inductive Target where
  /-- A mapped register word (R10). -/
  | reg (r : Reg)
  /-- The BUF word at BUF offset `a` (R35). -/
  | bufWord (a : Nat)
  /-- Not a multiple of 4 (R36). -/
  | misaligned
  /-- Aligned, and neither a register nor BUF (R37). -/
  | unmapped
deriving DecidableEq, Repr

/-- The window's layout: registers from 0x000, BUF from 0x10000, all else unmapped (R34, R36, R37). -/
def targetAt (bufBytes n : Nat) : Target :=
  if n % 4 ≠ 0 then .misaligned
  else if 0x10000 ≤ n then
    if n - 0x10000 < bufBytes then .bufWord (n - 0x10000) else .unmapped
  else
    match regMap.lookup n with
    | some r => .reg r
    | none => .unmapped

/-- What a window offset names (R34). -/
def targetOf (bufBytes : Nat) (off : Offset) : Target := targetAt bufBytes off.toNat

/-- The access that the pins h_sel, h_we, h_addr and h_wdata make in one cycle (R105). -/
def accessOfPins (hSel hWe : Bool) (hAddr : Offset) (hWdata : Word) : Option Access :=
  if hSel then some (if hWe then .write hAddr hWdata else .read hAddr) else none

/-- A host address A reaches window offset A - CORE_BASE (R34; log 6). -/
def windowOffset (hostAddr : Nat) : Option Offset :=
  if Config.coreBase ≤ hostAddr ∧ hostAddr < Config.coreBase + 0x20000 then
    some (BitVec.ofNat 17 (hostAddr - Config.coreBase))
  else none

end Sys2Proof.Machine
end

