-- ==== Sys2Proof/Machine/Ops.lean ====
section
/-! DEFINITION. The named operations over BUF and the registers: MemRead and MemWrite (20_memory.md R28, R29), the end
of a command (10_state.md R26), raising an error (60_exceptions.md R95), the issue step (R25), and reset
(70_reset_and_hazards.md R110). -/

namespace Sys2Proof.Machine

/-- The byte written at `a` since the last reset, if any. -/
def Memory.get? : Memory → Nat → Option Byte
  | [], _ => none
  | (b, v) :: m, a => if b = a then some v else Memory.get? m a

/-- Write one byte, keeping the addresses strictly rising. -/
def Memory.set : Memory → Nat → Byte → Memory
  | [], a, v => [(a, v)]
  | (b, x) :: m, a, v =>
    if a < b then (a, v) :: (b, x) :: m
    else if a = b then (a, v) :: m
    else (b, x) :: Memory.set m a v

/-- Write a byte sequence from offset `a` up (R29). -/
def Memory.setBytes : Memory → Nat → List Byte → Memory
  | m, _, [] => m
  | m, a, v :: vs => Memory.setBytes (Memory.set m a v) (a + 1) vs

/-- Every byte of an `n`-byte BUF written, the byte at `a` with `f a` (R90). -/
def Memory.filled (n : Nat) (f : Nat → Byte) : Memory := (List.range n).map fun a => (a, f a)

/-- Addresses strictly rising, from `lo` up. -/
def Memory.risingFrom : Nat → Memory → Bool
  | _, [] => true
  | lo, (a, _) :: m => decide (lo ≤ a) && Memory.risingFrom (a + 1) m

/-- The canonical form: addresses strictly rising. An unlisted address holds no written value, and a listed one always
does, so no entry equals what an unlisted address holds (log 4). -/
def Memory.wf (m : Memory) : Bool := Memory.risingFrom 0 m

/-- Every listed address is an offset of an `n`-byte BUF (R30). -/
def Memory.within (n : Nat) (m : Memory) : Bool := m.all fun c => decide (c.1 < n)

/-- `BUF[a]`: the byte written last, or the free value of a byte that nothing has written since reset (R114; log 4). -/
def State.readByte (s : State) (a : Nat) : Byte := (Memory.get? s.buf a).getD (Config.bufByte s.bufDraw a)

/-- `MemRead(a, n)` (R28). -/
def State.memRead (s : State) (a n : Nat) : List Byte := (List.range n).map fun k => s.readByte (a + k)

/-- `MemWrite(a, n, s)` with n = len(s) (R29). -/
def State.memWrite (s : State) (a : Nat) (bs : List Byte) : State := { s with buf := Memory.setBytes s.buf a bs }

/-- The IV region's bytes (R31). -/
def State.ivBytes (s : State) : List Byte := s.memRead s.ivAddr.toNat s.ivLen.toNat

/-- The AAD region's bytes (R31). -/
def State.aadBytes (s : State) : List Byte := s.memRead s.aadAddr.toNat s.aadLen.toNat

/-- The IN region's bytes (R31). -/
def State.inBytes (s : State) : List Byte := s.memRead s.inAddr.toNat s.inLen.toNat

/-- `RES <- v` (R14). -/
def State.setRes (s : State) (v : Block) : State := { s with res := v }

/-- `TAG <- v` (R15). -/
def State.setTag (s : State) (v : Block) : State := { s with tag := v }

/-- The value a command writes: its rule's, or a free value if the cipher was rekeyed in the BUSY window (R104; log 11).
Every value a completion step writes goes through this, but for DONE, ERR, SEQ and the hidden registers. -/
def State.written {α : Type} (s : State) (free rule : α) : α := if s.rekeyed then free else rule

/-- A command writes `v` to RES (R14, R104). -/
def State.writeRes (s : State) (v : Block) : State := s.setRes (s.written (Config.rekeyBlock s.draws 0) v)

/-- A command writes `v` to TAG (R15, R104). -/
def State.writeTag (s : State) (v : Block) : State := s.setTag (s.written (Config.rekeyBlock s.draws 1) v)

/-- A command writes AUTHOK and AUTHFAIL (R51, R80, R81, R104). Free values keep the bound of R18: not both (log 11). -/
def State.writeAuth (s : State) (ok fail : Bool) : State :=
  s.setAuth (s.written (Config.rekeyAuthOk s.draws) ok)
    (s.written (Config.rekeyAuthFail s.draws && !Config.rekeyAuthOk s.draws) fail)

/-- A command writes the bytes `bs` to BUF from offset `a` up (R29, R104). -/
def State.writeBytes (s : State) (a : Nat) (bs : List Byte) : State :=
  s.memWrite a (s.written ((List.range bs.length).map (Config.rekeyByte s.draws)) bs)

/-- A command's working values, in the hidden registers (R23; log 23). -/
def State.setHidden (s : State) (h : Hidden) : State := { s with hidden := h }

/-- One free value has been drawn (log 9). -/
def State.drawn (s : State) : State := { s with draws := s.draws + 1 }

/-- The end of every completion step: ERR <- code, DONE <- 1, SEQ <- IDLE, and every hidden register <- 0 (R26, R95).
The cipher port and the model's record of the window are back at rest. -/
def State.finish (s : State) (code : ErrCode) : State :=
  { s with
    status := { s.status with done := true, err := code }
    seq := .idle
    hidden := Hidden.zero
    cReq := none
    served := 0
    rekeyed := false }

/-- `raise ERR(code)`, the core's one exception: the command ends with the code and no other effect (R95). Nothing is
saved besides the code, and there is no return: the engine is IDLE and accepts the next command (R100). -/
def raiseErr (code : ErrCode) (s : State) : State := s.finish code

/-- The issue step of command word `w` (R25). -/
def State.issue (s : State) (w : Word) : State :=
  { s with
    cmdl := w
    cbszl := s.cBsz
    status := s.status.clearOutcome
    seq := .busy
    cReq := none
    served := 0
    rekeyed := false }

/-- A cycle with rst = 1: every piece of the core's state takes its reset value, and BUF is a fresh free value (R110;
logs 4, 20). The parameter BUF_BYTES, the pins `c_bsz`, the external cipher and the events to come are outside the core
and stay. -/
def State.applyReset (s : State) : State :=
  { State.reset with
    bufLog := s.bufLog
    cBsz := s.cBsz
    cipher := s.cipher
    bufDraw := s.draws
    draws := s.draws + 1
    events := s.events }

end Sys2Proof.Machine
end

