-- ==== Sys2Proof/Machine/Control.lean ====
section
/-! DEFINITION. The control commands: CLEAR and the reserved words (45_control.md). -/

namespace Sys2Proof.Machine

/-- What CLEAR writes: 0 to every piece of host-writable data state (R90), each value through `written` (R104; log 11). -/
def State.cleared (s : State) : State :=
  { s with
    opa := s.written (Config.rekeyBlock s.draws 2) 0
    opb := s.written (Config.rekeyBlock s.draws 3) 0
    res := s.written (Config.rekeyBlock s.draws 0) 0
    tag := s.written (Config.rekeyBlock s.draws 1) 0
    ivAddr := s.written (Config.rekeyWord s.draws 0) 0
    ivLen := s.written (Config.rekeyWord s.draws 1) 0
    aadAddr := s.written (Config.rekeyWord s.draws 2) 0
    aadLen := s.written (Config.rekeyWord s.draws 3) 0
    inAddr := s.written (Config.rekeyWord s.draws 4) 0
    inLen := s.written (Config.rekeyWord s.draws 5) 0
    outAddr := s.written (Config.rekeyWord s.draws 6) 0
    buf := Memory.filled s.bufBytes fun a => s.written (Config.rekeyByte s.draws a) 0 }

/-- CLEAR zeroises every piece of host-writable data state (R90). -/
def execClear (s : State) : Host.Outcome State Fault Refusal := .next (s.cleared.finish .noError)

/-- The reserved word with OP = 0 (R91). -/
def execIllegalOp0 (s : State) : Host.Outcome State Fault Refusal := .next (raiseErr .illegalCommand s)

/-- A reserved word with OP = 0x8 to 0xF (R91): the same whatever OP is. -/
def execIllegalOp8F (_op : BitVec 4) (s : State) : Host.Outcome State Fault Refusal :=
  .next (raiseErr .illegalCommand s)

/-- A reserved word with RSV != 0 (R91): the same whatever OP and RSV are. -/
def execIllegalRsv (_op : BitVec 4) (_rsv : BitVec 28) (s : State) : Host.Outcome State Fault Refusal :=
  .next (raiseErr .illegalCommand s)

end Sys2Proof.Machine
end

