-- ==== Sys2Proof/Machine/Counter.lean ====
section
/-! DEFINITION. U4, the counter generator (43_counter.md). -/

namespace Sys2Proof.Machine

/-- `incr(b)`: the rightmost 32 bits plus 1 modulo 2^32, the leftmost 96 unchanged (R70; 90_conflicts.md C1, C2). -/
def incr (b : Block) : Block := b.extractLsb' 32 96 ++ (b.extractLsb' 0 32 + 1)

/-- `Y(i)`: incr applied i times to Y0 (R71). -/
def counterBlock (y0 : Block) : Nat → Block
  | 0 => y0
  | i + 1 => incr (counterBlock y0 i)

/-- INCR: `RES <- incr(OPA)` (R72). -/
def execIncr (s : State) : Host.Outcome State Fault Refusal :=
  .next ((s.writeRes (incr s.opa)).finish .noError)

end Sys2Proof.Machine
end

