-- ==== Sys2Proof/Machine/GfMul.lean ====
section
/-! DEFINITION. U1, the GF(2^128) multiplier (41_gf_multiplier.md). -/

namespace Sys2Proof.Machine

/-- The reduction constant in the top byte: `0xE1 || 0^120` (R50). -/
def reduction : Block := (0xE1 : BitVec 8) ++ (0 : BitVec 120)

/-- `V <- V >> 1`, then the reduction if the bit shifted out was 1 (R50). -/
def shiftReduce (v : Block) : Block :=
  if v.getLsbD 0 then (v >>> 1) ^^^ reduction else v >>> 1

/-- One turn of the loop, for bit i of X counted from the most significant; the pair is (Z, V) (R50). -/
def mulStep (x : Block) (zv : Block × Block) (i : Nat) : Block × Block :=
  (if x.getLsbD (127 - i) then zv.1 ^^^ zv.2 else zv.1, shiftReduce zv.2)

/-- `multiply(X, Y)` (R50). -/
def multiply (x y : Block) : Block := ((List.range 128).foldl (mulStep x) (0, y)).1

/-- GFMUL: `RES <- multiply(OPA, OPB)` (R51). -/
def execGfmul (s : State) : Host.Outcome State Fault Refusal :=
  .next (((s.writeRes (multiply s.opa s.opb)).writeAuth false false).finish .noError)

end Sys2Proof.Machine
end

