-- ==== Sys2Proof/Machine/Ghash.lean ====
section
/-! DEFINITION. U2, the GHASH accumulator, and U3, the dual-path IV handler (42_ghash_iv.md). -/

namespace Sys2Proof.Machine

/-- `lenblock(A, C)`: the bit length of A, then that of C, 64 bits each (R61). -/
def lenblock (a c : List Byte) : Block :=
  BitVec.ofNat 64 (8 * a.length) ++ BitVec.ofNat 64 (8 * c.length)

/-- One fold of the recurrence: `X <- multiply(X ^ block, H)` (R60). -/
def ghashStep (h x blk : Block) : Block := multiply (x ^^^ blk) h

/-- `ghash(H, A, C)`: the chunks of A, then those of C, then the length block (R60 to R62). -/
def ghash (h : Block) (a c : List Byte) : Block :=
  ghashStep h (((chunks a ++ chunks c).map pad16).foldl (ghashStep h) 0) (lenblock a c)

/-- `y0(H, IV)`: the direct path for 12 bytes, the GHASH path for every other length (R63). -/
def y0 (h : Block) (iv : List Byte) : Block :=
  if iv.length = 12 then blockOf (iv ++ [0x00, 0x00, 0x00, 0x01]) else ghash h [] iv

/-- The check of GHASH (R64). -/
def ghashCheck (s : State) : Option ErrCode :=
  if regionValid s.bufBytes s.aadAddr s.aadLen && regionValid s.bufBytes s.inAddr s.inLen then none
  else some .region

/-- GHASH: `RES <- ghash(OPA, AAD, IN)` (R64). -/
def execGhash (s : State) : Host.Outcome State Fault Refusal :=
  match ghashCheck s with
  | some code => .next (raiseErr code s)
  | none => .next ((s.writeRes (ghash s.opa s.aadBytes s.inBytes)).finish .noError)

/-- The checks of Y0DERIVE in their order (R65, R97). -/
def y0Check (s : State) : Option ErrCode :=
  if s.ivLen = 0 then some .invalidIvLength
  else if regionValid s.bufBytes s.ivAddr s.ivLen then none
  else some .region

/-- Y0DERIVE: `RES <- y0(OPA, IV)` (R65). -/
def execY0derive (s : State) : Host.Outcome State Fault Refusal :=
  match y0Check s with
  | some code => .next (raiseErr code s)
  | none => .next ((s.writeRes (y0 s.opa s.ivBytes)).finish .noError)

end Sys2Proof.Machine
end

