-- ==== Sys2Proof/Machine/Engine.lean ====
section
/-! DEFINITION. U5, the GCM engine and tag generator (44_gcm_engine.md). -/

namespace Sys2Proof.Machine

/-- `Cipher(b)`, one invocation of the external cipher as it is keyed now (R104; log 7). -/
def CipherUnit.apply (u : CipherUnit) (b : Block) : Block := (u.known.lookup b).getD (Config.cipher u.key b)

/-- The keystream loop of `ctr` over the chunks that are left; `y` is CTR_I (R85). -/
def ctrChunks (cipher : Block → Block) : Block → List (List Byte) → List Byte
  | _, [] => []
  | y, c :: cs => xorbytes c (trunc (cipher (incr y)) c.length) ++ ctrChunks cipher (incr y) cs

/-- `ctr(Y0, D)` (R85). -/
def ctr (cipher : Block → Block) (y : Block) (d : List Byte) : List Byte := ctrChunks cipher y (chunks d)

/-- `tag(H, Y0, A, C)` (R82). -/
def gcmTag (cipher : Block → Block) (h y : Block) (a c : List Byte) : Block := ghash h a c ^^^ cipher y

/-- The checks of ENCRYPT and DECRYPT in their order (R86). -/
def precheck (s : State) : Option ErrCode :=
  if s.cbszl ≠ 16 then some .invalidBlockSize
  else if s.ivLen = 0 then some .invalidIvLength
  else if !(regionValid s.bufBytes s.ivAddr s.ivLen && regionValid s.bufBytes s.aadAddr s.aadLen
      && regionValid s.bufBytes s.inAddr s.inLen && regionValid s.bufBytes s.outAddr s.inLen) then some .region
  else if regionOverlap s.outAddr s.inLen s.ivAddr s.ivLen || regionOverlap s.outAddr s.inLen s.aadAddr s.aadLen
      || regionOverlap s.outAddr s.inLen s.inAddr s.inLen then some .overlap
  else none

/-- H, the subkey of a state: `Cipher(0^128)` (R80, R81). -/
def subkey (cipher : Block → Block) : Block := cipher 0

/-- Y0, the pre-counter block: `y0(H, IV)` (R80, R81). -/
def preCounter (cipher : Block → Block) (s : State) : Block := y0 (subkey cipher) s.ivBytes

/-- `ctr(Y0, IN)`: the ciphertext of an ENCRYPT, the plaintext of a DECRYPT (R80, R81). -/
def engineText (cipher : Block → Block) (s : State) : List Byte := ctr cipher (preCounter cipher s) s.inBytes

/-- The hidden registers once the tag over AAD and the ciphertext `c` is computed; CTR_I stands at counter block `n`
(R23, R80, R81; log 23). -/
def engineHidden (cipher : Block → Block) (s : State) (c : List Byte) (n : Nat) : Hidden where
  hI := subkey cipher
  y0I := preCounter cipher s
  ctrI := counterBlock (preCounter cipher s) n
  xI := ghash (subkey cipher) s.aadBytes c
  sI := ghash (subkey cipher) s.aadBytes c
  ksI := cipher (preCounter cipher s)
  tcI := gcmTag cipher (subkey cipher) (preCounter cipher s) s.aadBytes c

/-- ENCRYPT after its checks (R80). -/
def encryptRule (cipher : Block → Block) (s : State) : State :=
  let c := engineText cipher s
  let w := engineHidden cipher s c (chunkCount s.inLen.toNat)
  ((((s.writeBytes s.outAddr.toNat c).setHidden w).writeTag w.tcI).writeAuth false false).finish .noError

/-- ENCRYPT (R80). -/
def execEncrypt (s : State) : Host.Outcome State Fault Refusal :=
  match precheck s with
  | some code => .next (raiseErr code s)
  | none => .next (encryptRule s.cipher.apply s)

/-- T', the tag DECRYPT computes (R81). -/
def decryptTag (cipher : Block → Block) (s : State) : Block :=
  gcmTag cipher (subkey cipher) (preCounter cipher s) s.aadBytes s.inBytes

/-- DECRYPT after its checks (R81): AUTHOK on a match of all 128 bits of TC_I = T' with TAG, AUTHFAIL on a mismatch (R83),
and the keystream and the writing of OUT only without AUTHFAIL (R87). -/
def decryptRule (cipher : Block → Block) (s : State) : State :=
  let u := s.writeAuth (decide (decryptTag cipher s = s.tag)) (decide (decryptTag cipher s ≠ s.tag))
  if u.status.authFail then (u.setHidden (engineHidden cipher s s.inBytes 0)).finish .noError
  else ((u.setHidden (engineHidden cipher s s.inBytes (chunkCount s.inLen.toNat))).writeBytes s.outAddr.toNat
    (engineText cipher s)).finish .noError

/-- DECRYPT (R81). An error leaves AUTHOK = AUTHFAIL = 0 (R81, "Status written"; R18; log 15). -/
def execDecrypt (s : State) : Host.Outcome State Fault Refusal :=
  match precheck s with
  | some code => .next (raiseErr code (s.setAuth false false))
  | none => .next (decryptRule s.cipher.apply s)

end Sys2Proof.Machine
end

