-- ==== Sys2Proof/Machine/Dispatch.lean ====
section
/-! DEFINITION. One arm per command: the completion step of the decoded command (10_state.md R26). -/

namespace Sys2Proof.Machine

def exec (i : Instr) (s : State) : Host.Outcome State Fault Refusal :=
  match i with
  | .gfmul => Sys2Proof.Machine.execGfmul s
  | .incr => Sys2Proof.Machine.execIncr s
  | .ghash => Sys2Proof.Machine.execGhash s
  | .y0derive => Sys2Proof.Machine.execY0derive s
  | .encrypt => Sys2Proof.Machine.execEncrypt s
  | .decrypt => Sys2Proof.Machine.execDecrypt s
  | .clear => Sys2Proof.Machine.execClear s
  | .illegalOp0 => Sys2Proof.Machine.execIllegalOp0 s
  | .illegalOp8F op => Sys2Proof.Machine.execIllegalOp8F op s
  | .illegalRsv op rsv => Sys2Proof.Machine.execIllegalRsv op rsv s

end Sys2Proof.Machine
end

