-- ==== Sys2Proof/Machine/HostBus.lean ====
section
/-! DEFINITION. The host port: reads and writes of the window (10_state.md R10 to R22, 20_memory.md R34 to R43). -/

namespace Sys2Proof.Machine

/-- What a host read of a register word returns while BUSY = 0, and of most registers at any time (R10 to R22, R42). -/
def State.regValue (s : State) : Reg → Word
  | .id => 0x47434D31
  | .bufsz => BitVec.ofNat 32 s.bufBytes
  | .cmd => 0
  | .status => s.statusWord
  | .cbsz => s.cBsz.zeroExtend 32
  | .ivAddr => s.ivAddr
  | .ivLen => s.ivLen
  | .aadAddr => s.aadAddr
  | .aadLen => s.aadLen
  | .inAddr => s.inAddr
  | .inLen => s.inLen
  | .outAddr => s.outAddr
  | .opa j => blockWord s.opa j
  | .opb j => blockWord s.opb j
  | .res j => blockWord s.res j
  | .tag j => blockWord s.tag j

/-- The registers whose value a read does not give while BUSY = 1: RES and TAG (R42). -/
def Reg.hiddenWhileBusy : Reg → Bool
  | .res _ => true
  | .tag _ => true
  | .id => false
  | .bufsz => false
  | .cmd => false
  | .status => false
  | .cbsz => false
  | .ivAddr => false
  | .ivLen => false
  | .aadAddr => false
  | .aadLen => false
  | .inAddr => false
  | .inLen => false
  | .outAddr => false
  | .opa _ => false
  | .opb _ => false

/-- The BUF word at offset `a`: `BUF[a]` in bits 31:24 (R35). -/
def State.bufWord (s : State) (a : Nat) : Word :=
  s.readByte a ++ s.readByte (a + 1) ++ s.readByte (a + 2) ++ s.readByte (a + 3)

/-- The read returns `v` on h_rdata (R105). -/
def State.answer (s : State) (v : Word) : State := { s with hRdata := some v }

/-- A read of BUF, RES or TAG during the BUSY window: a free value (R42; log 9). -/
def State.answerBusy (s : State) : State := (s.answer (Config.busyRead s.draws)).drawn

/-- A host read (R35 to R38, R42). A refused read returns 0 and sets ACCERR; no other read has an effect (log 13). -/
def hostRead (off : Offset) (s : State) : State :=
  match targetOf s.bufBytes off with
  | .misaligned => (s.setAccerr).answer 0
  | .unmapped => (s.setAccerr).answer 0
  | .bufWord a => if s.isBusy then s.answerBusy else s.answer (s.bufWord a)
  | .reg r => if s.isBusy && r.hiddenWhileBusy then s.answerBusy else s.answer (s.regValue r)

/-- A host write of a register word other than STATUS, while BUSY = 0 (R10 to R22). A write to a read-only register is
ignored with no flag (R37); a write to CMD issues a command (R20). -/
def State.writeReg (s : State) (w : Word) : Reg → State
  | .id => s
  | .bufsz => s
  | .cbsz => s
  | .res _ => s
  | .cmd => s.issue w
  | .status => { s with status := s.status.writeOneToClear s.isBusy w }
  | .ivAddr => { s with ivAddr := w }
  | .ivLen => { s with ivLen := w }
  | .aadAddr => { s with aadAddr := w }
  | .aadLen => { s with aadLen := w }
  | .inAddr => { s with inAddr := w }
  | .inLen => { s with inLen := w }
  | .outAddr => { s with outAddr := w }
  | .opa j => { s with opa := setBlockWord s.opa j w }
  | .opb j => { s with opb := setBlockWord s.opb j w }
  | .tag j => { s with tag := setBlockWord s.tag j w }

/-- A host write (R35 to R37, R43). A refused write sets ACCERR, BUSY or not. A write to STATUS takes effect BUSY or not
(R19). Every other mapped write is dropped while BUSY = 1 and sets WBUSY. -/
def hostWrite (off : Offset) (w : Word) (s : State) : State :=
  match targetOf s.bufBytes off with
  | .misaligned => s.setAccerr
  | .unmapped => s.setAccerr
  | .bufWord a => if s.isBusy then s.setWbusy else s.memWrite a (wordBytes w)
  | .reg r => if s.isBusy && decide (r ≠ .status) then s.setWbusy else s.writeReg w r

/-- One access of the host port (R39). -/
def hostAccess (a : Access) (s : State) : State :=
  match a with
  | .read off => hostRead off s
  | .write off w => hostWrite off w s

/-- A cycle with rst = 1: the access has no effect, and a read returns a free value (R110, R111; log 10). -/
def resetCycle (during : Option Access) (s : State) : State :=
  match during with
  | some (.read _) => s.applyReset.answer (Config.resetRead s.draws)
  | some (.write _ _) => s.applyReset
  | none => s.applyReset

end Sys2Proof.Machine
end

