-- ==== Sys2Proof/Machine/Port.lean ====
section
/-! DEFINITION. The cipher port (60_exceptions.md R104) and the order of the calls on it (44_gcm_engine.md R84). -/

namespace Sys2Proof.Machine

/-- Y(1) to Y(n), n = ceil(IN_LEN / 16): the counter blocks a keystream needs (R84). -/
def keystreamCalls (cipher : Block → Block) (s : State) : List Block :=
  (List.range (chunkCount s.inLen.toNat)).map fun k => counterBlock (preCounter cipher s) (k + 1)

/-- ENCRYPT calls Cipher(0^128), then Cipher(Y(1)) to Cipher(Y(n)), then Cipher(Y0) (R84). -/
def encryptCalls (cipher : Block → Block) (s : State) : List Block :=
  [0] ++ keystreamCalls cipher s ++ [preCounter cipher s]

/-- DECRYPT calls Cipher(0^128), then Cipher(Y0), then, only on a matching tag, Cipher(Y(1)) to Cipher(Y(n)) (R84). -/
def decryptCalls (cipher : Block → Block) (s : State) : List Block :=
  [0, preCounter cipher s] ++ if decryptTag cipher s = s.tag then keystreamCalls cipher s else []

/-- The calls the command `i` makes in the state `s`, in order: none before all checks pass (R86), none for a command
other than ENCRYPT and DECRYPT (R84). -/
def cipherCalls (i : Instr) (s : State) : List Block :=
  match i with
  | .encrypt => if precheck s = none then encryptCalls s.cipher.apply s else []
  | .decrypt => if precheck s = none then decryptCalls s.cipher.apply s else []
  | .gfmul => []
  | .incr => []
  | .ghash => []
  | .y0derive => []
  | .clear => []
  | .illegalOp0 => []
  | .illegalOp8F _ => []
  | .illegalRsv _ _ => []

/-- The next block the running command has to ask the cipher for, if any (R84, R104). -/
def State.nextCall? (s : State) : Option Block := (cipherCalls (decode s.cmdl) s)[s.served]?

/-- The engine raises `c_req` with the block on `c_din` (R104). -/
def State.request (s : State) (b : Block) : State := { s with cReq := some b }

/-- The pin `c_req` (R104). -/
def State.cReqPin (s : State) : Bool := s.cReq.isSome

/-- The pins `c_din`: the requested block, held until the acknowledge; a free value while `c_req` = 0 (R104, U11; log 17). -/
def State.cDin (s : State) : Block := s.cReq.getD (Config.idleDin s.draws)

/-- The answer the cipher gives on `c_dout` with its acknowledge: `Cipher(c_din)` (R104). -/
def State.cDout (s : State) : Block := s.cipher.apply s.cDin

/-- `c_ack` for one cycle: the outstanding request is answered and `c_req` drops (R104). Without a request nothing
happens (log 18). -/
def cipherAcknowledge (s : State) : State :=
  match s.cReq with
  | some _ => { s with cReq := none, served := s.served + 1 }
  | none => s

/-- The cipher reports the block size `v` on `c_bsz` (R21, R104). In a BUSY window the pins stand still: CBSZ reads them
live (R21), and its value cannot change there (R42; DEDUCED, log 26). -/
def reportBlockSize (v : Byte) (s : State) : State := { s with cBsz := if s.isBusy then s.cBsz else v }

/-- The platform keys the cipher. During a BUSY window that breaks the cipher's contract, and the window is marked
(R104, R116, U7; log 11). A draw is taken, so that the free values of two such windows are unrelated (log 9). -/
def setCipher (u : CipherUnit) (s : State) : State :=
  State.drawn { s with cipher := u, rekeyed := s.rekeyed || s.isBusy }

end Sys2Proof.Machine
end

