-- ==== Sys2Proof/Machine/Sequencer.lean ====
section
/-! DEFINITION. The sequencer: the engine's moves in a BUSY window (10_state.md R25 to R27, 60_exceptions.md R104), and
what each event does. -/

namespace Sys2Proof.Machine

/-- The engine's next move. IDLE, it does nothing (R112). BUSY, it holds an outstanding request until the acknowledge,
else asks the cipher for the next block the command needs, else takes the completion step, which decodes CMDL and runs
the command (R26, R104; log 14). -/
def engineMove (s : State) : Host.Outcome State Fault Refusal :=
  match s.seq with
  | .idle => .next s
  | .busy =>
    match s.cReq with
    | some _ => .next s
    | none =>
      match s.nextCall? with
      | some b => .next (s.request b)
      | none => exec (decode s.cmdl) s

/-- The next cycle begins: its event is taken off the list, and `h_rdata` of an earlier read is no longer valid (R105). -/
def State.beginCycle (s : State) (rest : List Event) : State := { s with events := rest, hRdata := none }

/-- One event (R39, R104, R105, R110). -/
def runEvent (e : Event) (s : State) : Host.Outcome State Fault Refusal :=
  match e with
  | .host a => .next (hostAccess a s)
  | .engine => engineMove s
  | .cipherAck => .next (cipherAcknowledge s)
  | .blockSize v => .next (reportBlockSize v s)
  | .setKey u => .next (setCipher u s)
  | .reset during => .next (resetCycle during s)

/-- The state in which the very next step is the completion step of command word `w`: `w` is issued (R25), every
request it makes of the cipher has been answered (R104), and the engine moves next (log 3). -/
def State.issued (s : State) (w : Word) : State :=
  let t := s.issue w
  { t with
    served := (cipherCalls (decode w) t).length
    events := .engine :: s.events }

end Sys2Proof.Machine
end

