-- ==== Sys2Proof/Machine/Step.lean ====
section
/-! DEFINITION. One step of the machine: the next event, or, with none left, the engine's own move (logs 1, 2). -/

namespace Sys2Proof.Machine

def step (s : State) : Host.Outcome State Fault Refusal :=
  match s.events with
  | [] => engineMove (s.beginCycle [])
  | e :: rest => runEvent e (s.beginCycle rest)

/-- The core fetches no instructions (R41): the command word stands in CMDL, latched at issue (R25). -/
def State.withFetchWord (s : State) (_nbits w : Nat) : State := s.issued (BitVec.ofNat 32 w)

end Sys2Proof.Machine
end

