-- ==== Sys2Proof/Machine/HostProgram.lean ====
section
/-! DEFINITION. The host-program notation (30_encoding.md R122, R123) as lists of host accesses. -/

namespace Sys2Proof.Machine

/-- `WR off, v32` (R122). -/
def wr (off : Offset) (v : Word) : List Event := [.host (.write off v)]

/-- `RD off` (R122). -/
def rd (off : Offset) : List Event := [.host (.read off)]

/-- `CMD MNEMONIC`: one write of the command word to 0x008 (R122). -/
def cmd (i : Instr) : List Event := wr 0x008 (encode i)

/-- `WR128 R, v128`, R given by its base offset (R123). -/
def wr128 (base : Offset) (v : Block) : List Event :=
  wr base (blockWord v 0) ++ wr (base + 4) (blockWord v 1) ++ wr (base + 8) (blockWord v 2) ++ wr (base + 12) (blockWord v 3)

/-- `RD128 R` (R123). -/
def rd128 (base : Offset) : List Event := rd base ++ rd (base + 4) ++ rd (base + 8) ++ rd (base + 12)

/-- The offset `BUF+a` (R122). -/
def bufOffset (a : Nat) : Offset := BitVec.ofNat 17 (0x10000 + a)

/-- `WRBUF a, bytes`: one big-endian word for every four bytes (R123). -/
def wrbuf : Nat → List Byte → List Event
  | a, b0 :: b1 :: b2 :: b3 :: rest => wr (bufOffset a) (b0 ++ b1 ++ b2 ++ b3) ++ wrbuf (a + 4) rest
  | _, _ => []

/-- `RDBUF a, n` (R123). -/
def rdbuf (a n : Nat) : List Event := (List.range (n / 4)).flatMap fun k => rd (bufOffset (a + 4 * k))

/-- `WAIT` is a loop of the host: it reads STATUS until BUSY = 0 (R123). The polls that read BUSY = 1 are as many as the
BUSY window lets them be (U4), so a run fixes their number `polls` (log 25). -/
def waitPolls (polls : Nat) : List Event := (List.replicate (polls + 1) (rd 0x00C)).flatten

/-- `SETREG name, v`, the descriptor register given by its offset (R123). -/
def setreg (off : Offset) (v : Word) : List Event := wr off v

end Sys2Proof.Machine
end

