-- ==== Sys2Proof/Safety.lean ====
section
/-! DEFINITION. What counts as a safe run: the invariants of the state between steps, and a step that stops nowhere. -/

namespace Sys2Proof.Machine

/-- BUF is canonical and within BUF_BYTES (R30; log 4). -/
abbrev State.bufOk (s : State) : Prop :=
  Memory.wf s.buf = true ∧ Memory.within s.bufBytes s.buf = true

/-- Every hidden register is 0 between steps (R23, R26). -/
abbrev State.hiddenOk (s : State) : Prop := s.hidden = Hidden.zero

/-- At most one of AUTHOK, AUTHFAIL and ERR != 0 is set (R18). -/
abbrev State.outcomeOk (s : State) : Prop :=
  ¬(s.status.authOk = true ∧ s.status.authFail = true) ∧
  ¬(s.status.authOk = true ∧ s.status.err ≠ .noError) ∧
  ¬(s.status.authFail = true ∧ s.status.err ≠ .noError)

/-- During a BUSY window DONE, AUTHOK, AUTHFAIL and ERR are 0 (R18, R19, R25). -/
abbrev State.windowOk (s : State) : Prop :=
  s.seq = .busy → s.status.done = false ∧ s.status.authOk = false ∧ s.status.authFail = false ∧ s.status.err = .noError

/-- The cipher port is used only in a BUSY window (R104). -/
abbrev State.portOk (s : State) : Prop :=
  s.seq = .idle → s.cReq = none ∧ s.served = 0 ∧ s.rekeyed = false

/-- The invariant of the core. -/
abbrev State.Inv (s : State) : Prop :=
  s.bufOk ∧ s.hiddenOk ∧ s.outcomeOk ∧ s.windowOk ∧ s.portOk

/-- What no command writes: BUF_BYTES, CMDL and CBSZL, the pins, and the model's own fields about the world outside. -/
abbrev SameOutside (s t : State) : Prop :=
  t.bufLog = s.bufLog ∧ t.cmdl = s.cmdl ∧ t.cbszl = s.cbszl ∧ t.cBsz = s.cBsz ∧ t.hRdata = s.hRdata ∧
  t.cipher = s.cipher ∧ t.bufDraw = s.bufDraw ∧ t.events = s.events

/-- The seven descriptor registers are unchanged (R22). -/
abbrev SameDescriptors (s t : State) : Prop :=
  t.ivAddr = s.ivAddr ∧ t.ivLen = s.ivLen ∧ t.aadAddr = s.aadAddr ∧ t.aadLen = s.aadLen ∧
  t.inAddr = s.inAddr ∧ t.inLen = s.inLen ∧ t.outAddr = s.outAddr

/-- OPA and OPB are unchanged (R12, R13). -/
abbrev SameOperands (s t : State) : Prop := t.opa = s.opa ∧ t.opb = s.opb

/-- AUTHOK and AUTHFAIL are unchanged. -/
abbrev SameAuth (s t : State) : Prop := t.status.authOk = s.status.authOk ∧ t.status.authFail = s.status.authFail

/-- Every byte of BUF reads as before. -/
abbrev SameBuf (s t : State) : Prop := ∀ a, t.readByte a = s.readByte a

/-- How every completion step ends (R26, R95): SEQ is IDLE, DONE is set, ERR holds the code, every hidden register is 0,
the sticky flags are as before, and the cipher port is at rest. -/
abbrev Ended (s t : State) (code : ErrCode) : Prop :=
  t.seq = .idle ∧ t.status.done = true ∧ t.status.err = code ∧ t.hidden = Hidden.zero ∧
  t.status.wbusy = s.status.wbusy ∧ t.status.accerr = s.status.accerr ∧
  t.cReq = none ∧ t.served = 0 ∧ t.rekeyed = false

/-- A command that raised `code` changed nothing else (R95), but for AUTHOK and AUTHFAIL, about which this says nothing. -/
abbrev ErrorEnd (s t : State) (code : ErrCode) : Prop :=
  Ended s t code ∧ SameDescriptors s t ∧ SameOperands s t ∧ t.res = s.res ∧ t.tag = s.tag ∧ t.buf = s.buf ∧
  t.draws = s.draws ∧ SameOutside s t

/-- The checks of R86 pass. -/
abbrev ChecksPass (s : State) : Prop :=
  s.cbszl = 16 ∧ s.ivLen ≠ 0 ∧
  regionValid s.bufBytes s.ivAddr s.ivLen = true ∧ regionValid s.bufBytes s.aadAddr s.aadLen = true ∧
  regionValid s.bufBytes s.inAddr s.inLen = true ∧ regionValid s.bufBytes s.outAddr s.inLen = true ∧
  regionOverlap s.outAddr s.inLen s.ivAddr s.ivLen = false ∧
  regionOverlap s.outAddr s.inLen s.aadAddr s.aadLen = false ∧
  regionOverlap s.outAddr s.inLen s.inAddr s.inLen = false

/-- The offsets the window does not map for a BUF of `n` bytes (20_memory.md R37), as numbers. -/
abbrev UnmappedAt (n off : Nat) : Prop :=
  (0x014 ≤ off ∧ off ≤ 0x01F) ∨ (0x03C ≤ off ∧ off ≤ 0x03F) ∨ (0x080 ≤ off ∧ off ≤ 0xFFFF) ∨ 0x10000 + n ≤ off

/-- An aligned, mapped offset. -/
abbrev MappedAt (n off : Nat) : Prop := off % 4 = 0 ∧ ¬UnmappedAt n off

/-- An access that rules R36 and R37 refuse. -/
abbrev RefusedAt (n off : Nat) : Prop := off % 4 ≠ 0 ∨ UnmappedAt n off

/-- The next state of an outcome, if it has one. -/
def nextOf (o : Host.Outcome State Fault Refusal) : Option State :=
  match o with
  | .next t => some t
  | .fault _ => none
  | .refused _ => none

end Sys2Proof.Machine
end

