-- ==== Sys2Proof/Certificates/Slice0/Obligations.lean ====
section
/-! DEFINITION. The statements for the provers. Each docstring names the rule of spec/ it formalises. -/

namespace Sys2Proof.Machine

/-- The offsets of the read-write register words (10_state.md R10). -/
def readWriteOffsets : List Offset :=
  [0x020, 0x024, 0x028, 0x02C, 0x030, 0x034, 0x038,
   0x040, 0x044, 0x048, 0x04C, 0x050, 0x054, 0x058, 0x05C, 0x070, 0x074, 0x078, 0x07C]

/-- The offsets of the read-only register words (10_state.md R10, 20_memory.md R37). -/
def readOnlyOffsets : List Offset := [0x000, 0x004, 0x010, 0x060, 0x064, 0x068, 0x06C]

/-- The multiplicative identity (41_gf_multiplier.md R52). -/
def oneBlock : Block := 0x80000000000000000000000000000000

/-- What the host sees in `h_rdata` after a read at `off`, without the rest of the step. -/
def readValue (off : Offset) (s : State) : Option Word := (hostAccess (.read off) s).hRdata

end Sys2Proof.Machine

open Sys2Proof Sys2Proof.Machine

/-! ## Decoding and encoding -/

/-- 30_encoding.md R47, R49: a few words written out bit by bit, RSV then OP. -/
def Obligations.DecodeSpecWords : Prop :=
  decode 0b0000000000000000000000000000_0001 = .gfmul ∧
  decode 0b0000000000000000000000000000_0010 = .incr ∧
  decode 0b0000000000000000000000000000_0011 = .ghash ∧
  decode 0b0000000000000000000000000000_0100 = .y0derive ∧
  decode 0b0000000000000000000000000000_0101 = .encrypt ∧
  decode 0b0000000000000000000000000000_0110 = .decrypt ∧
  decode 0b0000000000000000000000000000_0111 = .clear ∧
  decode 0b0000000000000000000000000000_0000 = .illegalOp0 ∧
  decode 0b0000000000000000000000000000_1000 = .illegalOp8F 0b1000 ∧
  decode 0b0000000000000000000000000001_0101 = .illegalRsv 0b0101 1

/-- 30_encoding.md R47, over all words: a word with RSV != 0 (a word of 16 or more) is reserved whatever its OP;
otherwise OP selects. -/
def Obligations.DecodeFollowsOpcodeMap : Prop :=
  (∀ w : Word, 16 ≤ w.toNat → decode w = .illegalRsv (w.extractLsb' 0 4) (w.extractLsb' 4 28)) ∧
  (∀ w : Word, 8 ≤ w.toNat → w.toNat < 16 → decode w = .illegalOp8F (w.extractLsb' 0 4)) ∧
  decode 0 = .illegalOp0 ∧ decode 1 = .gfmul ∧ decode 2 = .incr ∧ decode 3 = .ghash ∧ decode 4 = .y0derive ∧
  decode 5 = .encrypt ∧ decode 6 = .decrypt ∧ decode 7 = .clear

/-- 30_encoding.md R46, R47: decoding an encoded well-formed instruction gives it back, whatever its fields. -/
def Obligations.DecodeEncodeRoundTrip : Prop :=
  ∀ i : Instr, i.wf = true → decode (encode i) = i

/-- 30_encoding.md R46, R47, R49: every word has one meaning; encoding its decoding gives the word back, and the
decoding is well-formed. -/
def Obligations.EncodeDecodeRoundTrip : Prop :=
  ∀ w : Word, encode (decode w) = w ∧ (decode w).wf = true

/-- 30_encoding.md R49: every word other than the seven decodes to a reserved row. -/
def Obligations.OtherWordsAreReserved : Prop :=
  ∀ w : Word, (w.toNat < 1 ∨ 7 < w.toNat) →
    decode w = .illegalOp0 ∨ (∃ op, decode w = .illegalOp8F op) ∨ ∃ op rsv, decode w = .illegalRsv op rsv

/-! ## The commands -/

/-- 45_control.md R91: a reserved command word (0, 8 to 15, or any with RSV != 0) raises ILLEGAL_COMMAND, changes nothing
else, and in a state whose AUTHOK and AUTHFAIL are 0 (as in every BUSY window) STATUS is 0x12 or-ed with the sticky bits. -/
def Obligations.ReservedCommandsRaise : Prop :=
  ∀ (i : Instr) (s : State),
    (i = .illegalOp0 ∨ (∃ op, i = .illegalOp8F op) ∨ (∃ op rsv, i = .illegalRsv op rsv) ∨
      ∃ w : Word, (w = 0 ∨ 8 ≤ w.toNat) ∧ i = decode w) →
    ∃ t, exec i s = .next t ∧ ErrorEnd s t .illegalCommand ∧ SameAuth s t ∧
      (s.status.authOk = false → s.status.authFail = false →
        t.statusWord = 0x12 ||| (s.statusWord &&& 0x300))

/-- 41_gf_multiplier.md R51: GFMUL completes in every state with RES = multiply(OPA, OPB) and DONE (the values under the
platform's duty of R104, no rekey in the BUSY window); its corner cases and its worked example; nothing else changes. -/
def Obligations.GfmulResult : Prop :=
  (∀ s : State, ∃ t, exec .gfmul s = .next t ∧
    (s.rekeyed = false →
      t.res = multiply s.opa s.opb ∧ t.status.authOk = false ∧ t.status.authFail = false ∧
      (s.opa = 0 ∨ s.opb = 0 → t.res = 0) ∧ (s.opa = oneBlock → t.res = s.opb) ∧ (s.opb = oneBlock → t.res = s.opa) ∧
      t.res = multiply s.opb s.opa) ∧
    Ended s t .noError ∧ SameDescriptors s t ∧ SameOperands s t ∧ t.tag = s.tag ∧ SameBuf s t ∧ t.draws = s.draws ∧ SameOutside s t) ∧
  multiply 0x40000000000000000000000000000000 0x00000000000000000000000000000001 = 0xE1000000000000000000000000000000

/-- 41_gf_multiplier.md R52 (the rule marks the laws as general knowledge): multiply is commutative, has the zero 0^128
and the identity ONE. -/
def Obligations.MultiplyLaws : Prop :=
  ∀ x y : Block, multiply x y = multiply y x ∧ multiply x 0 = 0 ∧ multiply x oneBlock = x

/-- 43_counter.md R72: INCR completes in every state; the low 32 bits of RES are those of OPA plus 1 modulo 2^32, the
high 96 are OPA's (under the platform's duty of R104, no rekey in the BUSY window); nothing else changes. -/
def Obligations.IncrResult : Prop :=
  ∀ s : State, ∃ t, exec .incr s = .next t ∧
    (s.rekeyed = false →
      t.res.extractLsb' 32 96 = s.opa.extractLsb' 32 96 ∧
      (t.res.extractLsb' 0 32).toNat = ((s.opa.extractLsb' 0 32).toNat + 1) % 2 ^ 32) ∧
    Ended s t .noError ∧ SameAuth s t ∧
    SameDescriptors s t ∧ SameOperands s t ∧ t.tag = s.tag ∧ SameBuf s t ∧ t.draws = s.draws ∧ SameOutside s t

/-- 43_counter.md R71: the closed form of Y(i). -/
def Obligations.CounterBlockClosedForm : Prop :=
  ∀ (y : Block) (i : Nat),
    counterBlock y i = y.extractLsb' 32 96 ++ BitVec.ofNat 32 (((y.extractLsb' 0 32).toNat + i) % 2 ^ 32)

/-- 43_counter.md R73: the counter blocks of one command are distinct from each other and from Y0. -/
def Obligations.CounterBlocksDistinct : Prop :=
  ∀ (y : Block) (i j : Nat), i ≤ 4096 → j ≤ 4096 → i ≠ j → counterBlock y i ≠ counterBlock y j

/-- 42_ghash_iv.md R64: GHASH with both regions valid completes with RES = ghash(OPA, AAD, IN) (the value under the
platform's duty of R104, no rekey in the BUSY window); with an invalid region it
raises REGION and changes nothing else; an empty region is valid; the worked example. -/
def Obligations.GhashResult : Prop :=
  (∀ s : State,
    (regionValid s.bufBytes s.aadAddr s.aadLen = true → regionValid s.bufBytes s.inAddr s.inLen = true →
      ∃ t, exec .ghash s = .next t ∧
        (s.rekeyed = false →
          t.res = ghash s.opa (s.memRead s.aadAddr.toNat s.aadLen.toNat) (s.memRead s.inAddr.toNat s.inLen.toNat) ∧
          (s.opa = 0 → t.res = 0) ∧ (s.aadLen = 0 → s.inLen = 0 → t.res = 0)) ∧
        Ended s t .noError ∧ SameAuth s t ∧
        SameDescriptors s t ∧ SameOperands s t ∧ t.tag = s.tag ∧ SameBuf s t ∧ t.draws = s.draws ∧ SameOutside s t) ∧
    (regionValid s.bufBytes s.aadAddr s.aadLen = false ∨ regionValid s.bufBytes s.inAddr s.inLen = false →
      ∃ t, exec .ghash s = .next t ∧ ErrorEnd s t .region ∧ SameAuth s t)) ∧
  (∀ (n : Nat) (a : Word), regionValid n a 0 = true) ∧
  ghash 0x66e94bd4ef8a2c3b884cfa59ca342b2e [] (bytesOf 0x0388dace60b6a392f328c2b971b2fe78) =
    0xf38cbb1ad69223dcc3457ae5b6b0f885

/-- 42_ghash_iv.md R60, R61, R62: GHASH of AAD and ciphertext unrolled: hashing `c` starts a new block after `a`, and one
more chunk of C folds one more block in before the length block; an empty C adds no chunk, and one more chunk of A after
whole chunks then folds one more block in before the length block. -/
def Obligations.GhashRecurrence : Prop :=
  (∀ (h : Block) (a c d : List Byte), c.length % 16 = 0 → 1 ≤ d.length → d.length ≤ 16 →
    ghash h a (c ++ d) =
      multiply (multiply ((((chunks a ++ chunks c).map pad16).foldl (fun x b => multiply (x ^^^ b) h) 0) ^^^ pad16 d) h
        ^^^ lenblock a (c ++ d)) h) ∧
  (∀ (h : Block) (a : List Byte),
    ghash h a [] = multiply ((((chunks a).map pad16).foldl (fun x b => multiply (x ^^^ b) h) 0) ^^^ lenblock a []) h) ∧
  (∀ (h : Block) (a d : List Byte), a.length % 16 = 0 → 1 ≤ d.length → d.length ≤ 16 →
    ghash h (a ++ d) [] =
      multiply (multiply ((((chunks a).map pad16).foldl (fun x b => multiply (x ^^^ b) h) 0) ^^^ pad16 d) h
        ^^^ lenblock (a ++ d) []) h)

/-- 42_ghash_iv.md R62, R64: the hash of nothing is 0 under every key, and the key 0 hashes everything to 0. -/
def Obligations.GhashOfEmptyAndZeroKey : Prop :=
  (∀ h : Block, ghash h [] [] = 0) ∧ (∀ a c : List Byte, ghash 0 a c = 0)

/-- 42_ghash_iv.md R61: each half of the length block is the bit length of its sequence. -/
def Obligations.LengthBlockHalves : Prop :=
  ∀ a c : List Byte, a.length < 2 ^ 32 → c.length < 2 ^ 32 →
    ((lenblock a c).extractLsb' 64 64).toNat = 8 * a.length ∧ ((lenblock a c).extractLsb' 0 64).toNat = 8 * c.length ∧
    8 * a.length < 2 ^ 35 ∧ 8 * c.length < 2 ^ 35

/-- 00_scope.md R8: the chunks of a sequence are the sequence, in pieces of 16 bytes but for a last one of 1 to 16. -/
def Obligations.ChunksPartition : Prop :=
  ∀ s : List Byte, (chunks s).flatten = s ∧ (chunks s).length = (s.length + 15) / 16 ∧
    (∀ c ∈ chunks s, 1 ≤ c.length ∧ c.length ≤ 16) ∧ (∀ c ∈ (chunks s).dropLast, c.length = 16)

/-- 42_ghash_iv.md R63: exactly 12 bytes take the direct path, whatever H is; every other length takes the GHASH path, with
the length block 0^64 || zext_64(8 * len(IV)). -/
def Obligations.IvPaths : Prop :=
  ∀ (h : Block) (iv : List Byte),
    (iv.length = 12 → bytesOf (y0 h iv) = iv ++ [0x00, 0x00, 0x00, 0x01]) ∧
    (iv.length ≠ 12 → y0 h iv = ghash h [] iv ∧
      lenblock [] iv = (0 : BitVec 64) ++ BitVec.ofNat 64 (8 * iv.length))

/-- 42_ghash_iv.md R65: Y0DERIVE with a non-empty valid IV region completes with RES = y0(OPA, IV) (the value under the
platform's duty of R104, no rekey in the BUSY window); an empty one raises INVALID_IV_LENGTH wherever it starts, else an
invalid one REGION, with no other effect; the worked example. -/
def Obligations.Y0deriveResult : Prop :=
  (∀ s : State,
    (s.ivLen ≠ 0 → regionValid s.bufBytes s.ivAddr s.ivLen = true →
      ∃ t, exec .y0derive s = .next t ∧
        (s.rekeyed = false →
          t.res = y0 s.opa (s.memRead s.ivAddr.toNat s.ivLen.toNat) ∧
          (s.ivLen = 12 → bytesOf t.res = s.memRead s.ivAddr.toNat 12 ++ [0x00, 0x00, 0x00, 0x01]) ∧
          (s.ivLen ≠ 12 → s.opa = 0 → t.res = 0)) ∧
        Ended s t .noError ∧ SameAuth s t ∧
        SameDescriptors s t ∧ SameOperands s t ∧ t.tag = s.tag ∧ SameBuf s t ∧ t.draws = s.draws ∧ SameOutside s t) ∧
    (s.ivLen = 0 → ∃ t, exec .y0derive s = .next t ∧ ErrorEnd s t .invalidIvLength ∧ SameAuth s t) ∧
    (s.ivLen ≠ 0 → regionValid s.bufBytes s.ivAddr s.ivLen = false →
      ∃ t, exec .y0derive s = .next t ∧ ErrorEnd s t .region ∧ SameAuth s t)) ∧
  y0 0xb83b533708bf535d0aa6e52980d53b78 [0xca, 0xfe, 0xba, 0xbe, 0xfa, 0xce, 0xdb, 0xad] =
    0xc43a83c4c4badec4354ca984db252f7d

/-- 44_gcm_engine.md R85: ctr, byte by byte: byte k is XORed with byte k mod 16 of Cipher(Y(k/16 + 1)); the length is the
input's, and the empty input gives the empty output. -/
def Obligations.CtrByteByByte : Prop :=
  ∀ (cipher : Block → Block) (y : Block) (d : List Byte),
    (ctr cipher y d).length = d.length ∧ ctr cipher y [] = [] ∧
    ∀ k, k < d.length →
      (ctr cipher y d)[k]? = some (d.getD k 0 ^^^ blockByte (cipher (counterBlock y (k / 16 + 1))) (k % 16))

/-- 44_gcm_engine.md R88 (its reason): ctr is its own inverse under the same Y0. -/
def Obligations.CtrIsItsOwnInverse : Prop :=
  ∀ (cipher : Block → Block) (y : Block) (d : List Byte), ctr cipher y (ctr cipher y d) = d

/-- 44_gcm_engine.md R80, R82: when the checks of R86 pass (and the platform keeps R116, no rekey in the BUSY window),
ENCRYPT writes ctr(Y0, P) to OUT and ghash(H, A, C) ^ Cipher(Y0) to TAG, and every byte of BUF outside OUT and every
other register is unchanged; when a check fails it ends with that error, and neither BUF nor TAG changes. -/
def Obligations.EncryptResult : Prop :=
  ∀ s : State,
    (ChecksPass s → s.rekeyed = false →
      ∃ t, exec .encrypt s = .next t ∧
        (let cipher := s.cipher.apply
         let y := y0 (cipher 0) (s.memRead s.ivAddr.toNat s.ivLen.toNat)
         let c := ctr cipher y (s.memRead s.inAddr.toNat s.inLen.toNat)
         t.memRead s.outAddr.toNat s.inLen.toNat = c ∧
         t.tag = ghash (cipher 0) (s.memRead s.aadAddr.toNat s.aadLen.toNat) c ^^^ cipher y ∧
         (s.inLen = 0 → s.aadLen = 0 → t.tag = cipher y)) ∧
        (∀ a, (a < s.outAddr.toNat ∨ s.outAddr.toNat + s.inLen.toNat ≤ a) → t.readByte a = s.readByte a) ∧
        Ended s t .noError ∧ t.status.authOk = false ∧ t.status.authFail = false ∧
        SameDescriptors s t ∧ SameOperands s t ∧ t.res = s.res ∧ t.draws = s.draws ∧ SameOutside s t) ∧
    (∀ code, precheck s = some code → ∃ t, exec .encrypt s = .next t ∧ ErrorEnd s t code ∧ SameAuth s t)

/-- 44_gcm_engine.md R81, R83: when the checks of R86 pass (and there was no rekey in the BUSY window), DECRYPT compares
all 128 bits of ghash(H, A, C) ^ Cipher(Y0) with TAG; on a match it writes ctr(Y0, C) to OUT and sets AUTHOK, otherwise
it writes no byte and sets AUTHFAIL; RES, TAG and every other register are unchanged. When a check fails it ends with
that error. -/
def Obligations.DecryptResult : Prop :=
  ∀ s : State,
    (ChecksPass s → s.rekeyed = false →
      ∃ t, exec .decrypt s = .next t ∧
        (let cipher := s.cipher.apply
         let y := y0 (cipher 0) (s.memRead s.ivAddr.toNat s.ivLen.toNat)
         let c := s.memRead s.inAddr.toNat s.inLen.toNat
         let tag := ghash (cipher 0) (s.memRead s.aadAddr.toNat s.aadLen.toNat) c ^^^ cipher y
         (tag = s.tag → t.status.authOk = true ∧ t.status.authFail = false ∧
           t.memRead s.outAddr.toNat s.inLen.toNat = ctr cipher y c ∧
           ∀ a, (a < s.outAddr.toNat ∨ s.outAddr.toNat + s.inLen.toNat ≤ a) → t.readByte a = s.readByte a) ∧
         (tag ≠ s.tag → t.status.authOk = false ∧ t.status.authFail = true ∧ SameBuf s t)) ∧
        Ended s t .noError ∧
        SameDescriptors s t ∧ SameOperands s t ∧ t.res = s.res ∧ t.tag = s.tag ∧ t.draws = s.draws ∧ SameOutside s t) ∧
    (∀ code, precheck s = some code →
      ∃ t, exec .decrypt s = .next t ∧ ErrorEnd s t code ∧ t.status.authOk = false ∧ t.status.authFail = false)

/-- 20_memory.md R31, R32, R33: a region (a, n) covers the offsets a to a+n-1; it is valid exactly when every offset it
covers lies in BUF, and two regions overlap exactly when some offset lies in both. Nothing wraps. -/
def Obligations.RegionsCoverBytes : Prop :=
  (∀ (n : Nat) (a len : Word),
    regionValid n a len = true ↔ ∀ x, a.toNat ≤ x → x < a.toNat + len.toNat → x < n) ∧
  (∀ a1 n1 a2 n2 : Word,
    regionOverlap a1 n1 a2 n2 = true ↔
      ∃ x, (a1.toNat ≤ x ∧ x < a1.toNat + n1.toNat) ∧ (a2.toNat ≤ x ∧ x < a2.toNat + n2.toNat))

/-- 44_gcm_engine.md R86: the checks of ENCRYPT and DECRYPT, in their order: the first that fails gives the error, and
the command has no other effect and asks the cipher for nothing. -/
def Obligations.EngineCheckOrder : Prop :=
  ∀ (i : Instr) (s : State), (i = .encrypt ∨ i = .decrypt) →
    let regions := regionValid s.bufBytes s.ivAddr s.ivLen && regionValid s.bufBytes s.aadAddr s.aadLen &&
      regionValid s.bufBytes s.inAddr s.inLen && regionValid s.bufBytes s.outAddr s.inLen
    let clash := regionOverlap s.outAddr s.inLen s.ivAddr s.ivLen || regionOverlap s.outAddr s.inLen s.aadAddr s.aadLen ||
      regionOverlap s.outAddr s.inLen s.inAddr s.inLen
    let raises := fun code => (∃ t, exec i s = .next t ∧ ErrorEnd s t code) ∧ cipherCalls i s = []
    (s.cbszl ≠ 16 → raises .invalidBlockSize) ∧
    (s.cbszl = 16 → s.ivLen = 0 → raises .invalidIvLength) ∧
    (s.cbszl = 16 → s.ivLen ≠ 0 → regions = false → raises .region) ∧
    (s.cbszl = 16 → s.ivLen ≠ 0 → regions = true → clash = true → raises .overlap) ∧
    (s.cbszl = 16 → s.ivLen ≠ 0 → regions = true → clash = false →
      ∃ t, exec i s = .next t ∧ t.status.err = .noError)

/-- 44_gcm_engine.md R88: take an ENCRYPT that ended with ERR = 0 (and no rekey in its window). A DECRYPT that passes its
checks, with the same IV and AAD contents, IN equal to the ciphertext, TAG equal to the tag and the same Cipher, ends
with AUTHOK = 1 and the original plaintext in its OUT region. -/
def Obligations.EncryptThenDecrypt : Prop :=
  ∀ s t u : State, s.rekeyed = false → exec .encrypt s = .next t → t.status.err = .noError →
    ChecksPass u → u.rekeyed = false → (∀ b, u.cipher.apply b = s.cipher.apply b) →
    u.memRead u.ivAddr.toNat u.ivLen.toNat = s.memRead s.ivAddr.toNat s.ivLen.toNat →
    u.memRead u.aadAddr.toNat u.aadLen.toNat = s.memRead s.aadAddr.toNat s.aadLen.toNat →
    u.memRead u.inAddr.toNat u.inLen.toNat = t.memRead s.outAddr.toNat s.inLen.toNat → u.tag = t.tag →
    ∃ v, exec .decrypt u = .next v ∧ v.status.authOk = true ∧ v.status.authFail = false ∧ v.status.err = .noError ∧
      v.memRead u.outAddr.toNat u.inLen.toNat = s.memRead s.inAddr.toNat s.inLen.toNat

/-- 45_control.md R90: CLEAR completes in every state and leaves every data register 0 and every byte of BUF 0x00 (the
values under the platform's duty of R104, no rekey in the BUSY window); the sticky flags do not change, and STATUS is 2
or-ed with them where AUTHOK and AUTHFAIL are 0. -/
def Obligations.ClearResult : Prop :=
  ∀ s : State, ∃ t, exec .clear s = .next t ∧
    (s.rekeyed = false →
      t.opa = 0 ∧ t.opb = 0 ∧ t.res = 0 ∧ t.tag = 0 ∧ t.ivAddr = 0 ∧ t.ivLen = 0 ∧ t.aadAddr = 0 ∧ t.aadLen = 0 ∧
      t.inAddr = 0 ∧ t.inLen = 0 ∧ t.outAddr = 0 ∧ ∀ a, a < s.bufBytes → t.readByte a = 0) ∧
    Ended s t .noError ∧ SameAuth s t ∧ t.draws = s.draws ∧ SameOutside s t ∧
    (s.status.authOk = false → s.status.authFail = false → t.statusWord = 0x2 ||| (s.statusWord &&& 0x300))

/-- 10_state.md R26, 60_exceptions.md R100: every command completes from every state: the engine is IDLE, DONE is set,
every hidden register is 0, and the sticky flags and everything outside a command's reach are as before. -/
def Obligations.EveryCommandEndsIdle : Prop :=
  ∀ (i : Instr) (s : State), ∃ t code, exec i s = .next t ∧ Ended s t code ∧ SameOutside s t

/-- 10_state.md R12 to R15, R22: only CLEAR writes OPA, OPB and the descriptors; only ENCRYPT and CLEAR write TAG; only
GFMUL, INCR, GHASH, Y0DERIVE and CLEAR write RES; only ENCRYPT, DECRYPT and CLEAR write BUF. -/
def Obligations.RegisterWriters : Prop :=
  ∀ (i : Instr) (s t : State), exec i s = .next t →
    (i ≠ .clear → SameOperands s t ∧ SameDescriptors s t) ∧
    (i ≠ .clear → i ≠ .encrypt → t.tag = s.tag) ∧
    (i ≠ .clear → i ≠ .gfmul → i ≠ .incr → i ≠ .ghash → i ≠ .y0derive → t.res = s.res) ∧
    (i ≠ .clear → i ≠ .encrypt → i ≠ .decrypt → SameBuf s t)

/-- 60_exceptions.md R95: a command that ends with an error changed nothing but STATUS, SEQ and the hidden registers. -/
def Obligations.ErrorsArePrecise : Prop :=
  ∀ (i : Instr) (s t : State), exec i s = .next t → t.status.err ≠ .noError → ErrorEnd s t t.status.err

/-- 60_exceptions.md R104, 93_implementation_defined.md U7, as the model reads them (log 11): if the cipher was rekeyed in
the BUSY window and the checks pass, ENCRYPT and DECRYPT still complete, and every value they write is free: the bytes of
OUT, TAG, AUTHOK and AUTHFAIL (never both, R18). A DECRYPT with AUTHFAIL writes no byte (R87). What they do not write does
not change: every byte of BUF outside OUT, and every other register. -/
def Obligations.RekeyedWindowIsFree : Prop :=
  ∀ s : State, ChecksPass s → s.rekeyed = true →
    let out := (List.range s.inLen.toNat).map (Config.rekeyByte s.draws)
    let ok := Config.rekeyAuthOk s.draws
    let fail := Config.rekeyAuthFail s.draws && !Config.rekeyAuthOk s.draws
    (∃ t, exec .encrypt s = .next t ∧ t.tag = Config.rekeyBlock s.draws 1 ∧
      t.memRead s.outAddr.toNat s.inLen.toNat = out ∧
      (∀ a, (a < s.outAddr.toNat ∨ s.outAddr.toNat + s.inLen.toNat ≤ a) → t.readByte a = s.readByte a) ∧
      t.status.authOk = ok ∧ t.status.authFail = fail ∧ Ended s t .noError ∧
      SameDescriptors s t ∧ SameOperands s t ∧ t.res = s.res ∧ t.draws = s.draws ∧ SameOutside s t) ∧
    (∃ t, exec .decrypt s = .next t ∧ t.status.authOk = ok ∧ t.status.authFail = fail ∧
      (fail = true → SameBuf s t) ∧
      (fail = false → t.memRead s.outAddr.toNat s.inLen.toNat = out ∧
        ∀ a, (a < s.outAddr.toNat ∨ s.outAddr.toNat + s.inLen.toNat ≤ a) → t.readByte a = s.readByte a) ∧
      Ended s t .noError ∧ SameDescriptors s t ∧ SameOperands s t ∧ t.res = s.res ∧ t.tag = s.tag ∧ t.draws = s.draws ∧
      SameOutside s t)

/-- 60_exceptions.md R104 ("every value the command writes"), as the model reads it (log 11): if the cipher was rekeyed in
the BUSY window, the commands that never call it write free values too: GFMUL to RES, AUTHOK and AUTHFAIL (never both,
R18), INCR, GHASH and Y0DERIVE to RES, CLEAR to the registers and to every byte of BUF. What they leave unchanged, the
statement of each command's result says, rekeyed or not. -/
def Obligations.RekeyedUnitCommandsAreFree : Prop :=
  ∀ s : State, s.rekeyed = true →
    (∃ t, exec .gfmul s = .next t ∧ t.res = Config.rekeyBlock s.draws 0 ∧ t.status.authOk = Config.rekeyAuthOk s.draws ∧
      t.status.authFail = (Config.rekeyAuthFail s.draws && !Config.rekeyAuthOk s.draws) ∧ Ended s t .noError) ∧
    (∃ t, exec .incr s = .next t ∧ t.res = Config.rekeyBlock s.draws 0 ∧ Ended s t .noError) ∧
    (regionValid s.bufBytes s.aadAddr s.aadLen = true → regionValid s.bufBytes s.inAddr s.inLen = true →
      ∃ t, exec .ghash s = .next t ∧ t.res = Config.rekeyBlock s.draws 0 ∧ Ended s t .noError) ∧
    (s.ivLen ≠ 0 → regionValid s.bufBytes s.ivAddr s.ivLen = true →
      ∃ t, exec .y0derive s = .next t ∧ t.res = Config.rekeyBlock s.draws 0 ∧ Ended s t .noError) ∧
    (∃ t, exec .clear s = .next t ∧ t.res = Config.rekeyBlock s.draws 0 ∧ t.tag = Config.rekeyBlock s.draws 1 ∧
      t.opa = Config.rekeyBlock s.draws 2 ∧ t.opb = Config.rekeyBlock s.draws 3 ∧
      t.ivAddr = Config.rekeyWord s.draws 0 ∧ t.ivLen = Config.rekeyWord s.draws 1 ∧
      t.aadAddr = Config.rekeyWord s.draws 2 ∧ t.aadLen = Config.rekeyWord s.draws 3 ∧
      t.inAddr = Config.rekeyWord s.draws 4 ∧ t.inLen = Config.rekeyWord s.draws 5 ∧
      t.outAddr = Config.rekeyWord s.draws 6 ∧
      (∀ a, a < s.bufBytes → t.readByte a = Config.rekeyByte s.draws a) ∧ Ended s t .noError)

/-! ## Steps -/

/-- 10_state.md R26: when the engine moves in a BUSY window, no request is outstanding and the command needs no further
one, the step is the completion step: exec of the decoded CMDL, in the state whose cycle has begun. The model's own are
two things here: that the engine moves when no event is left (log 2), and the count `served` of answered calls, by which
a command needs no further one (log 14). -/
def Obligations.StepRunsDecodedCommand : Prop :=
  ∀ (s : State) (rest : List Event), (s.events = .engine :: rest ∨ (s.events = [] ∧ rest = [])) →
    s.seq = .busy → s.cReq = none → (cipherCalls (decode s.cmdl) s).length ≤ s.served →
    step s = exec (decode s.cmdl) { s with events := rest, hRdata := none }

/-- 20_memory.md R39: the step takes the first event (the event list is the model's own, log 1), in the state whose cycle
has begun. A change of `c_bsz` is seen while IDLE, and in a BUSY window the pins stand still (R42; log 26). A rekey marks a
BUSY window and takes a draw (logs 9, 11). -/
def Obligations.StepTakesFirstEvent : Prop :=
  ∀ (s : State) (rest : List Event),
    (∀ a, s.events = .host a :: rest → step s = .next (hostAccess a { s with events := rest, hRdata := none })) ∧
    (∀ d, s.events = .reset d :: rest → step s = .next (resetCycle d { s with events := rest, hRdata := none })) ∧
    (∀ v, s.events = .blockSize v :: rest →
      step s = .next { s with events := rest, hRdata := none, cBsz := if s.seq = .busy then s.cBsz else v }) ∧
    (∀ u, s.events = .setKey u :: rest →
      step s = .next
        { s with
          events := rest, hRdata := none, cipher := u, rekeyed := s.rekeyed || s.isBusy, draws := s.draws + 1 })

/-- The model's own convention (log 3): after withFetchWord the very next step is the completion step of that command
word, in the state its issue leaves, with every request of the cipher answered. -/
def Obligations.FetchedWordRunsNext : Prop :=
  ∀ (s : State) (nbits w : Nat), ∃ n,
    step (s.withFetchWord nbits w) =
      exec (decode (BitVec.ofNat 32 w)) { s.issue (BitVec.ofNat 32 w) with served := n, hRdata := none }

/-- 70_reset_and_hazards.md R112: after reset the core is IDLE; IDLE, its engine does nothing (its move changes only what
the cycle itself changes), and the core stays IDLE until the host writes CMD. -/
def Obligations.IdleEngineWaits : Prop :=
  State.reset.seq = .idle ∧
  (∀ (s : State) (rest : List Event), s.seq = .idle → (s.events = .engine :: rest ∨ (s.events = [] ∧ rest = [])) →
    step s = .next { s with events := rest, hRdata := none }) ∧
  ∀ s t : State, s.seq = .idle → (∀ w, s.events.head? ≠ some (.host (.write 0x008 w))) → step s = .next t → t.seq = .idle

/-- 10_state.md R25: a host write of any word to CMD while IDLE is an issue step; BUSY reads 1 exactly when SEQ is BUSY,
and SEQ is IDLE at reset. -/
def Obligations.CmdWriteIssues : Prop :=
  State.reset.seq = .idle ∧
  (∀ s : State, s.statusWord.getLsbD 0 = true ↔ s.seq = .busy) ∧
  ∀ (s : State) (w : Word), s.seq = .idle →
    hostAccess (.write 0x008 w) s =
      { s with
        cmdl := w, cbszl := s.cBsz, seq := .busy, cReq := none, served := 0, rekeyed := false
        status := { s.status with done := false, authOk := false, authFail := false, err := .noError } }

/-- 10_state.md R19: a host write to STATUS, BUSY or not, changes only STATUS and never sets WBUSY. -/
def Obligations.StatusWriteOneToClear : Prop :=
  ∀ (s : State) (w : Word),
    let t := hostAccess (.write 0x00C w) s
    (w.getLsbD 1 = true → s.seq = .idle →
      t.status.done = false ∧ t.status.authOk = false ∧ t.status.authFail = false ∧ t.status.err = .noError) ∧
    (w.getLsbD 1 = false ∨ s.seq = .busy →
      t.status.done = s.status.done ∧ SameAuth s t ∧ t.status.err = s.status.err) ∧
    t.status.wbusy = (s.status.wbusy && !w.getLsbD 8) ∧ t.status.accerr = (s.status.accerr && !w.getLsbD 9) ∧
    t = { s with status := t.status }

/-- 10_state.md R18: the STATUS word's fields at their bits, and bits 31:10 read 0. -/
def Obligations.StatusLayout : Prop :=
  ∀ s : State,
    s.statusWord.getLsbD 0 = s.isBusy ∧ s.statusWord.getLsbD 1 = s.status.done ∧
    s.statusWord.getLsbD 2 = s.status.authOk ∧ s.statusWord.getLsbD 3 = s.status.authFail ∧
    s.statusWord.extractLsb' 4 4 = s.status.err.code ∧ s.status.err.code.toNat ≤ 5 ∧
    s.statusWord.getLsbD 8 = s.status.wbusy ∧ s.statusWord.getLsbD 9 = s.status.accerr ∧
    s.statusWord.extractLsb' 10 22 = 0

/-! ## The host port -/

/-- 20_memory.md R43: while BUSY = 1 a host write to any aligned, mapped offset other than STATUS changes nothing and sets
WBUSY; a write to STATUS keeps its effect of R19; a misaligned or unmapped one sets ACCERR and not WBUSY. -/
def Obligations.BusyWritesDropped : Prop :=
  ∀ (s : State) (off : Offset) (w : Word), s.seq = .busy →
    (MappedAt s.bufBytes off.toNat → off ≠ 0x00C →
      hostAccess (.write off w) s = { s with status := { s.status with wbusy := true } }) ∧
    (off = 0x00C →
      hostAccess (.write off w) s = { s with status :=
        { s.status with wbusy := s.status.wbusy && !w.getLsbD 8, accerr := s.status.accerr && !w.getLsbD 9 } }) ∧
    (RefusedAt s.bufBytes off.toNat →
      hostAccess (.write off w) s = { s with status := { s.status with accerr := true } })

/-- 20_memory.md R42: while BUSY = 1 a read of a BUF, RES or TAG word returns a free value and sets no flag, and a read of
any other register returns its current value (of CBSZ the pins `c_bsz`, R21). -/
def Obligations.BusyReads : Prop :=
  ∀ (s : State) (off : Offset), s.seq = .busy → off.toNat % 4 = 0 →
    ((0x60 ≤ off.toNat ∧ off.toNat < 0x80) ∨ (0x10000 ≤ off.toNat ∧ off.toNat < 0x10000 + s.bufBytes) →
      hostAccess (.read off) s = { s with hRdata := some (Config.busyRead s.draws), draws := s.draws + 1 }) ∧
    (off = 0x00C → hostAccess (.read off) s = { s with hRdata := some s.statusWord }) ∧
    (off.toNat < 0x60 → ¬UnmappedAt s.bufBytes off.toNat → off ≠ 0x00C →
      hostAccess (.read off) s = { s with hRdata := readValue off { s with seq := .idle } })

/-- 20_memory.md R36, R37: a misaligned or unmapped access is refused, BUSY or not: a read returns 0, a write changes
nothing, and ACCERR is set. A write to a mapped read-only register while IDLE is ignored with no flag, and a read of CMD
returns 0 with no flag. -/
def Obligations.RefusedAccesses : Prop :=
  (∀ (s : State) (off : Offset) (w : Word), RefusedAt s.bufBytes off.toNat →
    hostAccess (.read off) s = { s with hRdata := some 0, status := { s.status with accerr := true } } ∧
    hostAccess (.write off w) s = { s with status := { s.status with accerr := true } }) ∧
  (∀ (s : State) (off : Offset) (w : Word), s.seq = .idle → off ∈ readOnlyOffsets → hostAccess (.write off w) s = s) ∧
  (∀ s : State, hostAccess (.read 0x008) s = { s with hRdata := some 0 })

/-- 10_state.md R10: what an IDLE read returns at each register's offset. -/
def Obligations.RegisterMapReads : Prop :=
  ∀ s : State, s.seq = .idle →
    readValue 0x000 s = some 0x47434D31 ∧ readValue 0x004 s = some (BitVec.ofNat 32 s.bufBytes) ∧
    readValue 0x008 s = some 0 ∧ readValue 0x010 s = some (s.cBsz.zeroExtend 32) ∧
    readValue 0x00C s = some s.statusWord ∧
    readValue 0x020 s = some s.ivAddr ∧ readValue 0x024 s = some s.ivLen ∧ readValue 0x028 s = some s.aadAddr ∧
    readValue 0x02C s = some s.aadLen ∧ readValue 0x030 s = some s.inAddr ∧ readValue 0x034 s = some s.inLen ∧
    readValue 0x038 s = some s.outAddr ∧
    ∀ j : Fin 4,
      readValue (BitVec.ofNat 17 (0x040 + 4 * j.val)) s = some (s.opa.extractLsb' (96 - 32 * j.val) 32) ∧
      readValue (BitVec.ofNat 17 (0x050 + 4 * j.val)) s = some (s.opb.extractLsb' (96 - 32 * j.val) 32) ∧
      readValue (BitVec.ofNat 17 (0x060 + 4 * j.val)) s = some (s.res.extractLsb' (96 - 32 * j.val) 32) ∧
      readValue (BitVec.ofNat 17 (0x070 + 4 * j.val)) s = some (s.tag.extractLsb' (96 - 32 * j.val) 32)

/-- 10_state.md R16, R17: ID always reads 0x47434D31 and BUFSZ always BUF_BYTES, BUSY or not, and no step changes BUF_BYTES;
R21: CBSZ always reads the pins `c_bsz`, BUSY or not (that they stand still in a BUSY window is log 26's and not said
here); 00_scope.md R4: BUF_BYTES is a power of two from 256 to 65536 (a field of the model's, log 5). -/
def Obligations.ConstantRegisters : Prop :=
  (∀ s : State, readValue 0x000 s = some 0x47434D31 ∧ readValue 0x004 s = some (BitVec.ofNat 32 s.bufBytes) ∧
    readValue 0x010 s = some (s.cBsz.zeroExtend 32)) ∧
  (∀ s : State, 256 ≤ s.bufBytes ∧ s.bufBytes ≤ 65536 ∧ ∃ k, s.bufBytes = 2 ^ k) ∧
  (∀ s t : State, step s = .next t → t.bufBytes = s.bufBytes)

/-- 10_state.md R11, R22: a read-write register word reads back as written, every other register word reads as before, and
BUF and STATUS do not change. -/
def Obligations.RegisterWriteReadBack : Prop :=
  ∀ (s : State) (off : Offset) (w : Word), s.seq = .idle → off ∈ readWriteOffsets →
    let t := hostAccess (.write off w) s
    readValue off t = some w ∧
    (∀ other ∈ readWriteOffsets ++ readOnlyOffsets, other ≠ off → readValue other t = readValue other s) ∧
    t.buf = s.buf ∧ t.status = s.status ∧ t.seq = .idle ∧ SameOutside s t

/-- 20_memory.md R35: BUF words on the host bus are big-endian; a word write sets its four bytes and no other; a block at a
BUF offset reads as the words of the same block in a register. -/
def Obligations.BufWordsAreBigEndian : Prop :=
  ∀ (s : State) (a : Nat) (w : Word), s.seq = .idle → a % 4 = 0 → a + 4 ≤ s.bufBytes →
    let off := BitVec.ofNat 17 (0x10000 + a)
    let t := hostAccess (.write off w) s
    hostAccess (.read off) s =
      { s with hRdata := some (s.readByte a ++ s.readByte (a + 1) ++ s.readByte (a + 2) ++ s.readByte (a + 3)) } ∧
    t.readByte a = w.extractLsb' 24 8 ∧ t.readByte (a + 1) = w.extractLsb' 16 8 ∧
    t.readByte (a + 2) = w.extractLsb' 8 8 ∧ t.readByte (a + 3) = w.extractLsb' 0 8 ∧
    (∀ b, (b < a ∨ a + 4 ≤ b) → t.readByte b = s.readByte b) ∧ t = { s with buf := t.buf } ∧
    readValue off t = some w ∧
    (∀ (c : Nat) (j : Fin 4), c % 16 = 0 → c + 16 ≤ s.bufBytes → a = c + 4 * j.val →
      readValue off s = some (blockWord (blockOf (s.memRead c 16)) j))

/-- 20_memory.md R38: a host read of a mapped location, BUSY or not, changes no state but `h_rdata` (and the model's own
count of free values). -/
def Obligations.ReadsHaveNoEffect : Prop :=
  ∀ (s : State) (off : Offset), MappedAt s.bufBytes off.toNat →
    ∃ v n, hostAccess (.read off) s = { s with hRdata := v, draws := n } ∧ (s.seq = .idle → n = s.draws)

/-- 20_memory.md R28, R29: what MemWrite stores MemRead gives back, and every other byte is unchanged. -/
def Obligations.MemReadAfterMemWrite : Prop :=
  ∀ (s : State) (a : Nat) (bs : List Byte),
    (s.memWrite a bs).memRead a bs.length = bs ∧
    (∀ b, (b < a ∨ a + bs.length ≤ b) → (s.memWrite a bs).readByte b = s.readByte b) ∧
    (∀ n k, k < n → (s.memRead a n)[k]? = some (s.readByte (a + k))) ∧ s.memRead a 0 = []

/-! ## Reset -/

/-- 70_reset_and_hazards.md R110: a cycle with rst = 1 sets every register to its value in the table from any state, BUSY
or not, and leaves every byte of BUF a free value; State.reset holds the same values. -/
def Obligations.ResetValues : Prop :=
  let isReset := fun t : State =>
    t.status = ⟨false, false, false, .noError, false, false⟩ ∧ t.statusWord = 0 ∧
    t.ivAddr = 0 ∧ t.ivLen = 0 ∧ t.aadAddr = 0 ∧ t.aadLen = 0 ∧ t.inAddr = 0 ∧ t.inLen = 0 ∧ t.outAddr = 0 ∧
    t.opa = 0 ∧ t.opb = 0 ∧ t.res = 0 ∧ t.tag = 0 ∧
    t.hidden.hI = 0 ∧ t.hidden.y0I = 0 ∧ t.hidden.ctrI = 0 ∧ t.hidden.xI = 0 ∧ t.hidden.sI = 0 ∧ t.hidden.ksI = 0 ∧
    t.hidden.tcI = 0 ∧ t.cmdl = 0 ∧ t.cbszl = 0 ∧ t.seq = .idle ∧ t.cReqPin = false ∧
    (∀ a, t.readByte a = Config.bufByte t.bufDraw a) ∧
    readValue 0x000 t = some 0x47434D31 ∧ readValue 0x004 t = some (BitVec.ofNat 32 t.bufBytes) ∧
    readValue 0x008 t = some 0 ∧ readValue 0x010 t = some (t.cBsz.zeroExtend 32)
  isReset State.reset ∧
  ∀ (s : State) (during : Option Access) (rest : List Event), s.events = .reset during :: rest →
    ∃ t, step s = .next t ∧ isReset t ∧ t.bufBytes = s.bufBytes ∧ t.cBsz = s.cBsz ∧ t.cipher = s.cipher ∧
      t.bufDraw = s.draws ∧ t.events = rest

/-- 70_reset_and_hazards.md R111: a host access in a cycle with rst = 1 has no effect; a read returns a free value. -/
def Obligations.AccessDuringReset : Prop :=
  ∀ (s : State) (off : Offset) (w : Word),
    resetCycle (some (.write off w)) s = resetCycle none s ∧
    resetCycle (some (.read off)) s = { resetCycle none s with hRdata := some (Config.resetRead s.draws) }

/-! ## Invariants and whole-machine rules -/

/-- The invariant holds at reset. -/
def Obligations.ResetMeetsInvariant : Prop := State.reset.Inv

/-- Every step from every state that meets the invariant gives a state that meets it: BUF stays canonical and inside
BUF_BYTES (20_memory.md R30; log 4), every hidden register is 0 between steps (10_state.md R23), at most one of AUTHOK,
AUTHFAIL and ERR != 0 is set (R18), the outcome fields are clear during a BUSY window (R25), and the cipher port is at
rest while IDLE (60_exceptions.md R104). -/
def Obligations.StepKeepsInvariant : Prop :=
  ∀ s t : State, s.Inv → step s = .next t → t.Inv

/-- The machine never stops: every step from every state answers a next state (60_exceptions.md R95, R100, R101). -/
def Obligations.EveryStepAnswers : Prop := ∀ s : State, ∃ t, step s = .next t

/-- 10_state.md R23, 60_exceptions.md R102: no access and no command reads a hidden register: two states that differ only
in the hidden registers step to states that differ at most in them, and after a completion step not even there. -/
def Obligations.HiddenRegistersHaveNoAddress : Prop :=
  (∀ (s : State) (h : Hidden) (t : State), step s = .next t →
    ∃ t', step { s with hidden := h } = .next t' ∧ { t' with hidden := Hidden.zero } = { t with hidden := Hidden.zero }) ∧
  (∀ (i : Instr) (s : State) (h : Hidden), exec i { s with hidden := h } = exec i s)

/-- 20_memory.md R42, R43, R45: while the BUSY window lasts, no step changes anything the command reads or writes but the
cipher behind its port, nor what a host read of a register other than STATUS, RES and TAG returns (of CBSZ because the
pins `c_bsz` stand still, log 26). -/
def Obligations.WindowFreezesInputs : Prop :=
  ∀ s t : State, s.seq = .busy → step s = .next t → t.seq = .busy →
    t.cmdl = s.cmdl ∧ t.cbszl = s.cbszl ∧ SameDescriptors s t ∧ SameOperands s t ∧ t.res = s.res ∧ t.tag = s.tag ∧
    t.buf = s.buf ∧ SameBuf s t ∧ t.hidden = s.hidden ∧
    t.status.done = s.status.done ∧ SameAuth s t ∧ t.status.err = s.status.err ∧ t.cBsz = s.cBsz ∧
    ∀ off : Offset, off.toNat < 0x60 → off ≠ 0x00C → readValue off t = readValue off s

/-- 44_gcm_engine.md R84, on the pins of 60_exceptions.md R104: the calls of the cipher port in order: ENCRYPT calls
0^128, Y(1) to Y(n), Y0; DECRYPT calls 0^128, Y0, and Y(1) to Y(n) only on a matching tag; the other commands call
nothing. The engine's move in a BUSY window without an outstanding request raises `c_req` with the next of these
calls. The model's own are two things here: that one move raises the call that the count `served` names (log 14), and
that after a rekey in the window the calls follow the cipher as keyed now (log 12). -/
def Obligations.CipherCallOrder : Prop :=
  (∀ (s : State) (rest : List Event) (b : Block), (s.events = .engine :: rest ∨ (s.events = [] ∧ rest = [])) →
    s.seq = .busy → s.cReq = none → (cipherCalls (decode s.cmdl) s)[s.served]? = some b →
    step s = .next { s with events := rest, hRdata := none, cReq := some b }) ∧
  (∀ (s : State) (i : Instr), i ≠ .encrypt → i ≠ .decrypt → cipherCalls i s = []) ∧
  ∀ s : State, ChecksPass s →
    let cipher := s.cipher.apply
    let y := y0 (cipher 0) (s.memRead s.ivAddr.toNat s.ivLen.toNat)
    let n := (s.inLen.toNat + 15) / 16
    let tag := ghash (cipher 0) (s.memRead s.aadAddr.toNat s.aadLen.toNat)
      (s.memRead s.inAddr.toNat s.inLen.toNat) ^^^ cipher y
    (cipherCalls .encrypt s).length = n + 2 ∧ (cipherCalls .encrypt s)[0]? = some 0 ∧
    (∀ k, k < n → (cipherCalls .encrypt s)[k + 1]? = some (counterBlock y (k + 1))) ∧
    (cipherCalls .encrypt s)[n + 1]? = some y ∧
    (cipherCalls .decrypt s).length = (if tag = s.tag then n + 2 else 2) ∧
    (cipherCalls .decrypt s)[0]? = some 0 ∧ (cipherCalls .decrypt s)[1]? = some y ∧
    (tag = s.tag → ∀ k, k < n → (cipherCalls .decrypt s)[k + 2]? = some (counterBlock y (k + 1)))

/-- 60_exceptions.md R104: an outstanding request is held, `c_req` and `c_din` stable, by every step but an acknowledge or
a reset; the acknowledge drops it and counts the call, and nothing else. -/
def Obligations.CipherRequestHeld : Prop :=
  ∀ (s : State) (b : Block), s.seq = .busy → s.cReq = some b →
    (∀ t, step s = .next t → s.events.head? ≠ some .cipherAck → (∀ d, s.events.head? ≠ some (.reset d)) →
      t.cReqPin = true ∧ t.cDin = b ∧ t.served = s.served ∧ t.seq = .busy) ∧
    (∀ rest, s.events = .cipherAck :: rest →
      s.cDin = b ∧ s.cDout = s.cipher.apply b ∧
      step s = .next { s with events := rest, hRdata := none, cReq := none, served := s.served + 1 })

/-- 70_reset_and_hazards.md R125: if the cipher answers each request and the core is not reset, the completion step
happens. The count is the model's own: with the engine's moves and the acknowledges alternating (log 1), one step for each
request and one for each acknowledge, in which `c_req` drops (log 14), the command has run after 2n + 1 steps on the state
it was issued in, where n is the number of calls still to be answered. -/
def Obligations.AnsweredWindowCompletes : Prop :=
  ∀ (s : State) (n : Nat) (rest : List Event), s.seq = .busy → s.cReq = none →
    (cipherCalls (decode s.cmdl) s).length = s.served + n →
    s.events = (List.replicate n [Event.engine, Event.cipherAck]).flatten ++ Event.engine :: rest →
    Host.Core.run Sys2Proof.core (2 * n + 1) s =
      exec (decode s.cmdl) { s with events := rest, hRdata := none, served := s.served + n } ∧
    ∃ t, Host.Core.run Sys2Proof.core (2 * n + 1) s = .next t ∧ t.seq = .idle ∧ t.status.done = true

/-- 60_exceptions.md R104, 93_implementation_defined.md U5: if the cipher never acknowledges and the core is not reset,
the engine stays BUSY for ever, with the request outstanding. -/
def Obligations.SilentCipherHangs : Prop :=
  ∀ (k : Nat) (s : State) (b : Block), s.seq = .busy → s.cReq = some b →
    (∀ e ∈ s.events, e ≠ .cipherAck ∧ ∀ d, e ≠ .reset d) →
    ∃ t, Host.Core.run Sys2Proof.core k s = .next t ∧ t.seq = .busy ∧ t.cReq = some b ∧ t.cmdl = s.cmdl ∧ t.buf = s.buf ∧
      t.tag = s.tag ∧ t.res = s.res ∧ t.status.done = s.status.done

/-- 10_state.md R25, R26, 41_gf_multiplier.md R51, on the bus: the host issues GFMUL, the engine completes it, and the host
reads word j of the product from RES, with STATUS.BUSY = 0. The events that bring this about are the model's (log 1). -/
def Obligations.HostReadsProduct : Prop :=
  ∀ (s : State) (j : Fin 4) (rest : List Event), s.seq = .idle →
    s.events = cmd .gfmul ++ .engine :: rd (BitVec.ofNat 17 (0x060 + 4 * j.val)) ++ rest →
    ∃ t, Host.Core.run Sys2Proof.core 3 s = .next t ∧
      t.hRdata = some ((multiply s.opa s.opb).extractLsb' (96 - 32 * j.val) 32) ∧
      t.seq = .idle ∧ t.status.done = true ∧ t.status.err = .noError ∧ t.events = rest
end

