-- ==== Sys2Proof/Laws/State.lean ====
section
/-! SUPPORT. One lemma per field per update of State, so that no proof unfolds a record update. -/

namespace Sys2Proof.Machine

section Updates

variable (s : State) (b : Block) (w : Word) (h : Hidden) (e : ErrCode) (ok fail : Bool) (a : Nat) (bs : List Byte)
  (evs : List Event)

@[simp] theorem State.setRes_bufLog : (s.setRes b).bufLog = s.bufLog := rfl
@[simp] theorem State.setRes_status : (s.setRes b).status = s.status := rfl
@[simp] theorem State.setRes_ivAddr : (s.setRes b).ivAddr = s.ivAddr := rfl
@[simp] theorem State.setRes_ivLen : (s.setRes b).ivLen = s.ivLen := rfl
@[simp] theorem State.setRes_aadAddr : (s.setRes b).aadAddr = s.aadAddr := rfl
@[simp] theorem State.setRes_aadLen : (s.setRes b).aadLen = s.aadLen := rfl
@[simp] theorem State.setRes_inAddr : (s.setRes b).inAddr = s.inAddr := rfl
@[simp] theorem State.setRes_inLen : (s.setRes b).inLen = s.inLen := rfl
@[simp] theorem State.setRes_outAddr : (s.setRes b).outAddr = s.outAddr := rfl
@[simp] theorem State.setRes_opa : (s.setRes b).opa = s.opa := rfl
@[simp] theorem State.setRes_opb : (s.setRes b).opb = s.opb := rfl
@[simp] theorem State.setRes_res : (s.setRes b).res = b := rfl
@[simp] theorem State.setRes_tag : (s.setRes b).tag = s.tag := rfl
@[simp] theorem State.setRes_hidden : (s.setRes b).hidden = s.hidden := rfl
@[simp] theorem State.setRes_cmdl : (s.setRes b).cmdl = s.cmdl := rfl
@[simp] theorem State.setRes_cbszl : (s.setRes b).cbszl = s.cbszl := rfl
@[simp] theorem State.setRes_seq : (s.setRes b).seq = s.seq := rfl
@[simp] theorem State.setRes_buf : (s.setRes b).buf = s.buf := rfl
@[simp] theorem State.setRes_cReq : (s.setRes b).cReq = s.cReq := rfl
@[simp] theorem State.setRes_cBsz : (s.setRes b).cBsz = s.cBsz := rfl
@[simp] theorem State.setRes_hRdata : (s.setRes b).hRdata = s.hRdata := rfl
@[simp] theorem State.setRes_cipher : (s.setRes b).cipher = s.cipher := rfl
@[simp] theorem State.setRes_served : (s.setRes b).served = s.served := rfl
@[simp] theorem State.setRes_rekeyed : (s.setRes b).rekeyed = s.rekeyed := rfl
@[simp] theorem State.setRes_bufDraw : (s.setRes b).bufDraw = s.bufDraw := rfl
@[simp] theorem State.setRes_draws : (s.setRes b).draws = s.draws := rfl
@[simp] theorem State.setRes_events : (s.setRes b).events = s.events := rfl

@[simp] theorem State.setTag_bufLog : (s.setTag b).bufLog = s.bufLog := rfl
@[simp] theorem State.setTag_status : (s.setTag b).status = s.status := rfl
@[simp] theorem State.setTag_ivAddr : (s.setTag b).ivAddr = s.ivAddr := rfl
@[simp] theorem State.setTag_ivLen : (s.setTag b).ivLen = s.ivLen := rfl
@[simp] theorem State.setTag_aadAddr : (s.setTag b).aadAddr = s.aadAddr := rfl
@[simp] theorem State.setTag_aadLen : (s.setTag b).aadLen = s.aadLen := rfl
@[simp] theorem State.setTag_inAddr : (s.setTag b).inAddr = s.inAddr := rfl
@[simp] theorem State.setTag_inLen : (s.setTag b).inLen = s.inLen := rfl
@[simp] theorem State.setTag_outAddr : (s.setTag b).outAddr = s.outAddr := rfl
@[simp] theorem State.setTag_opa : (s.setTag b).opa = s.opa := rfl
@[simp] theorem State.setTag_opb : (s.setTag b).opb = s.opb := rfl
@[simp] theorem State.setTag_res : (s.setTag b).res = s.res := rfl
@[simp] theorem State.setTag_tag : (s.setTag b).tag = b := rfl
@[simp] theorem State.setTag_hidden : (s.setTag b).hidden = s.hidden := rfl
@[simp] theorem State.setTag_cmdl : (s.setTag b).cmdl = s.cmdl := rfl
@[simp] theorem State.setTag_cbszl : (s.setTag b).cbszl = s.cbszl := rfl
@[simp] theorem State.setTag_seq : (s.setTag b).seq = s.seq := rfl
@[simp] theorem State.setTag_buf : (s.setTag b).buf = s.buf := rfl
@[simp] theorem State.setTag_cReq : (s.setTag b).cReq = s.cReq := rfl
@[simp] theorem State.setTag_cBsz : (s.setTag b).cBsz = s.cBsz := rfl
@[simp] theorem State.setTag_hRdata : (s.setTag b).hRdata = s.hRdata := rfl
@[simp] theorem State.setTag_cipher : (s.setTag b).cipher = s.cipher := rfl
@[simp] theorem State.setTag_served : (s.setTag b).served = s.served := rfl
@[simp] theorem State.setTag_rekeyed : (s.setTag b).rekeyed = s.rekeyed := rfl
@[simp] theorem State.setTag_bufDraw : (s.setTag b).bufDraw = s.bufDraw := rfl
@[simp] theorem State.setTag_draws : (s.setTag b).draws = s.draws := rfl
@[simp] theorem State.setTag_events : (s.setTag b).events = s.events := rfl

@[simp] theorem State.setHidden_bufLog : (s.setHidden h).bufLog = s.bufLog := rfl
@[simp] theorem State.setHidden_status : (s.setHidden h).status = s.status := rfl
@[simp] theorem State.setHidden_ivAddr : (s.setHidden h).ivAddr = s.ivAddr := rfl
@[simp] theorem State.setHidden_ivLen : (s.setHidden h).ivLen = s.ivLen := rfl
@[simp] theorem State.setHidden_aadAddr : (s.setHidden h).aadAddr = s.aadAddr := rfl
@[simp] theorem State.setHidden_aadLen : (s.setHidden h).aadLen = s.aadLen := rfl
@[simp] theorem State.setHidden_inAddr : (s.setHidden h).inAddr = s.inAddr := rfl
@[simp] theorem State.setHidden_inLen : (s.setHidden h).inLen = s.inLen := rfl
@[simp] theorem State.setHidden_outAddr : (s.setHidden h).outAddr = s.outAddr := rfl
@[simp] theorem State.setHidden_opa : (s.setHidden h).opa = s.opa := rfl
@[simp] theorem State.setHidden_opb : (s.setHidden h).opb = s.opb := rfl
@[simp] theorem State.setHidden_res : (s.setHidden h).res = s.res := rfl
@[simp] theorem State.setHidden_tag : (s.setHidden h).tag = s.tag := rfl
@[simp] theorem State.setHidden_hidden : (s.setHidden h).hidden = h := rfl
@[simp] theorem State.setHidden_cmdl : (s.setHidden h).cmdl = s.cmdl := rfl
@[simp] theorem State.setHidden_cbszl : (s.setHidden h).cbszl = s.cbszl := rfl
@[simp] theorem State.setHidden_seq : (s.setHidden h).seq = s.seq := rfl
@[simp] theorem State.setHidden_buf : (s.setHidden h).buf = s.buf := rfl
@[simp] theorem State.setHidden_cReq : (s.setHidden h).cReq = s.cReq := rfl
@[simp] theorem State.setHidden_cBsz : (s.setHidden h).cBsz = s.cBsz := rfl
@[simp] theorem State.setHidden_hRdata : (s.setHidden h).hRdata = s.hRdata := rfl
@[simp] theorem State.setHidden_cipher : (s.setHidden h).cipher = s.cipher := rfl
@[simp] theorem State.setHidden_served : (s.setHidden h).served = s.served := rfl
@[simp] theorem State.setHidden_rekeyed : (s.setHidden h).rekeyed = s.rekeyed := rfl
@[simp] theorem State.setHidden_bufDraw : (s.setHidden h).bufDraw = s.bufDraw := rfl
@[simp] theorem State.setHidden_draws : (s.setHidden h).draws = s.draws := rfl
@[simp] theorem State.setHidden_events : (s.setHidden h).events = s.events := rfl

@[simp] theorem State.setAuth_bufLog : (s.setAuth ok fail).bufLog = s.bufLog := rfl
@[simp] theorem State.setAuth_status : (s.setAuth ok fail).status = { s.status with authOk := ok, authFail := fail } := rfl
@[simp] theorem State.setAuth_ivAddr : (s.setAuth ok fail).ivAddr = s.ivAddr := rfl
@[simp] theorem State.setAuth_ivLen : (s.setAuth ok fail).ivLen = s.ivLen := rfl
@[simp] theorem State.setAuth_aadAddr : (s.setAuth ok fail).aadAddr = s.aadAddr := rfl
@[simp] theorem State.setAuth_aadLen : (s.setAuth ok fail).aadLen = s.aadLen := rfl
@[simp] theorem State.setAuth_inAddr : (s.setAuth ok fail).inAddr = s.inAddr := rfl
@[simp] theorem State.setAuth_inLen : (s.setAuth ok fail).inLen = s.inLen := rfl
@[simp] theorem State.setAuth_outAddr : (s.setAuth ok fail).outAddr = s.outAddr := rfl
@[simp] theorem State.setAuth_opa : (s.setAuth ok fail).opa = s.opa := rfl
@[simp] theorem State.setAuth_opb : (s.setAuth ok fail).opb = s.opb := rfl
@[simp] theorem State.setAuth_res : (s.setAuth ok fail).res = s.res := rfl
@[simp] theorem State.setAuth_tag : (s.setAuth ok fail).tag = s.tag := rfl
@[simp] theorem State.setAuth_hidden : (s.setAuth ok fail).hidden = s.hidden := rfl
@[simp] theorem State.setAuth_cmdl : (s.setAuth ok fail).cmdl = s.cmdl := rfl
@[simp] theorem State.setAuth_cbszl : (s.setAuth ok fail).cbszl = s.cbszl := rfl
@[simp] theorem State.setAuth_seq : (s.setAuth ok fail).seq = s.seq := rfl
@[simp] theorem State.setAuth_buf : (s.setAuth ok fail).buf = s.buf := rfl
@[simp] theorem State.setAuth_cReq : (s.setAuth ok fail).cReq = s.cReq := rfl
@[simp] theorem State.setAuth_cBsz : (s.setAuth ok fail).cBsz = s.cBsz := rfl
@[simp] theorem State.setAuth_hRdata : (s.setAuth ok fail).hRdata = s.hRdata := rfl
@[simp] theorem State.setAuth_cipher : (s.setAuth ok fail).cipher = s.cipher := rfl
@[simp] theorem State.setAuth_served : (s.setAuth ok fail).served = s.served := rfl
@[simp] theorem State.setAuth_rekeyed : (s.setAuth ok fail).rekeyed = s.rekeyed := rfl
@[simp] theorem State.setAuth_bufDraw : (s.setAuth ok fail).bufDraw = s.bufDraw := rfl
@[simp] theorem State.setAuth_draws : (s.setAuth ok fail).draws = s.draws := rfl
@[simp] theorem State.setAuth_events : (s.setAuth ok fail).events = s.events := rfl

@[simp] theorem State.memWrite_bufLog : (s.memWrite a bs).bufLog = s.bufLog := rfl
@[simp] theorem State.memWrite_status : (s.memWrite a bs).status = s.status := rfl
@[simp] theorem State.memWrite_ivAddr : (s.memWrite a bs).ivAddr = s.ivAddr := rfl
@[simp] theorem State.memWrite_ivLen : (s.memWrite a bs).ivLen = s.ivLen := rfl
@[simp] theorem State.memWrite_aadAddr : (s.memWrite a bs).aadAddr = s.aadAddr := rfl
@[simp] theorem State.memWrite_aadLen : (s.memWrite a bs).aadLen = s.aadLen := rfl
@[simp] theorem State.memWrite_inAddr : (s.memWrite a bs).inAddr = s.inAddr := rfl
@[simp] theorem State.memWrite_inLen : (s.memWrite a bs).inLen = s.inLen := rfl
@[simp] theorem State.memWrite_outAddr : (s.memWrite a bs).outAddr = s.outAddr := rfl
@[simp] theorem State.memWrite_opa : (s.memWrite a bs).opa = s.opa := rfl
@[simp] theorem State.memWrite_opb : (s.memWrite a bs).opb = s.opb := rfl
@[simp] theorem State.memWrite_res : (s.memWrite a bs).res = s.res := rfl
@[simp] theorem State.memWrite_tag : (s.memWrite a bs).tag = s.tag := rfl
@[simp] theorem State.memWrite_hidden : (s.memWrite a bs).hidden = s.hidden := rfl
@[simp] theorem State.memWrite_cmdl : (s.memWrite a bs).cmdl = s.cmdl := rfl
@[simp] theorem State.memWrite_cbszl : (s.memWrite a bs).cbszl = s.cbszl := rfl
@[simp] theorem State.memWrite_seq : (s.memWrite a bs).seq = s.seq := rfl
@[simp] theorem State.memWrite_buf : (s.memWrite a bs).buf = Memory.setBytes s.buf a bs := rfl
@[simp] theorem State.memWrite_cReq : (s.memWrite a bs).cReq = s.cReq := rfl
@[simp] theorem State.memWrite_cBsz : (s.memWrite a bs).cBsz = s.cBsz := rfl
@[simp] theorem State.memWrite_hRdata : (s.memWrite a bs).hRdata = s.hRdata := rfl
@[simp] theorem State.memWrite_cipher : (s.memWrite a bs).cipher = s.cipher := rfl
@[simp] theorem State.memWrite_served : (s.memWrite a bs).served = s.served := rfl
@[simp] theorem State.memWrite_rekeyed : (s.memWrite a bs).rekeyed = s.rekeyed := rfl
@[simp] theorem State.memWrite_bufDraw : (s.memWrite a bs).bufDraw = s.bufDraw := rfl
@[simp] theorem State.memWrite_draws : (s.memWrite a bs).draws = s.draws := rfl
@[simp] theorem State.memWrite_events : (s.memWrite a bs).events = s.events := rfl

@[simp] theorem State.drawn_bufLog : (s.drawn).bufLog = s.bufLog := rfl
@[simp] theorem State.drawn_status : (s.drawn).status = s.status := rfl
@[simp] theorem State.drawn_ivAddr : (s.drawn).ivAddr = s.ivAddr := rfl
@[simp] theorem State.drawn_ivLen : (s.drawn).ivLen = s.ivLen := rfl
@[simp] theorem State.drawn_aadAddr : (s.drawn).aadAddr = s.aadAddr := rfl
@[simp] theorem State.drawn_aadLen : (s.drawn).aadLen = s.aadLen := rfl
@[simp] theorem State.drawn_inAddr : (s.drawn).inAddr = s.inAddr := rfl
@[simp] theorem State.drawn_inLen : (s.drawn).inLen = s.inLen := rfl
@[simp] theorem State.drawn_outAddr : (s.drawn).outAddr = s.outAddr := rfl
@[simp] theorem State.drawn_opa : (s.drawn).opa = s.opa := rfl
@[simp] theorem State.drawn_opb : (s.drawn).opb = s.opb := rfl
@[simp] theorem State.drawn_res : (s.drawn).res = s.res := rfl
@[simp] theorem State.drawn_tag : (s.drawn).tag = s.tag := rfl
@[simp] theorem State.drawn_hidden : (s.drawn).hidden = s.hidden := rfl
@[simp] theorem State.drawn_cmdl : (s.drawn).cmdl = s.cmdl := rfl
@[simp] theorem State.drawn_cbszl : (s.drawn).cbszl = s.cbszl := rfl
@[simp] theorem State.drawn_seq : (s.drawn).seq = s.seq := rfl
@[simp] theorem State.drawn_buf : (s.drawn).buf = s.buf := rfl
@[simp] theorem State.drawn_cReq : (s.drawn).cReq = s.cReq := rfl
@[simp] theorem State.drawn_cBsz : (s.drawn).cBsz = s.cBsz := rfl
@[simp] theorem State.drawn_hRdata : (s.drawn).hRdata = s.hRdata := rfl
@[simp] theorem State.drawn_cipher : (s.drawn).cipher = s.cipher := rfl
@[simp] theorem State.drawn_served : (s.drawn).served = s.served := rfl
@[simp] theorem State.drawn_rekeyed : (s.drawn).rekeyed = s.rekeyed := rfl
@[simp] theorem State.drawn_bufDraw : (s.drawn).bufDraw = s.bufDraw := rfl
@[simp] theorem State.drawn_draws : (s.drawn).draws = s.draws + 1 := rfl
@[simp] theorem State.drawn_events : (s.drawn).events = s.events := rfl

@[simp] theorem State.setAccerr_bufLog : (s.setAccerr).bufLog = s.bufLog := rfl
@[simp] theorem State.setAccerr_status : (s.setAccerr).status = { s.status with accerr := true } := rfl
@[simp] theorem State.setAccerr_ivAddr : (s.setAccerr).ivAddr = s.ivAddr := rfl
@[simp] theorem State.setAccerr_ivLen : (s.setAccerr).ivLen = s.ivLen := rfl
@[simp] theorem State.setAccerr_aadAddr : (s.setAccerr).aadAddr = s.aadAddr := rfl
@[simp] theorem State.setAccerr_aadLen : (s.setAccerr).aadLen = s.aadLen := rfl
@[simp] theorem State.setAccerr_inAddr : (s.setAccerr).inAddr = s.inAddr := rfl
@[simp] theorem State.setAccerr_inLen : (s.setAccerr).inLen = s.inLen := rfl
@[simp] theorem State.setAccerr_outAddr : (s.setAccerr).outAddr = s.outAddr := rfl
@[simp] theorem State.setAccerr_opa : (s.setAccerr).opa = s.opa := rfl
@[simp] theorem State.setAccerr_opb : (s.setAccerr).opb = s.opb := rfl
@[simp] theorem State.setAccerr_res : (s.setAccerr).res = s.res := rfl
@[simp] theorem State.setAccerr_tag : (s.setAccerr).tag = s.tag := rfl
@[simp] theorem State.setAccerr_hidden : (s.setAccerr).hidden = s.hidden := rfl
@[simp] theorem State.setAccerr_cmdl : (s.setAccerr).cmdl = s.cmdl := rfl
@[simp] theorem State.setAccerr_cbszl : (s.setAccerr).cbszl = s.cbszl := rfl
@[simp] theorem State.setAccerr_seq : (s.setAccerr).seq = s.seq := rfl
@[simp] theorem State.setAccerr_buf : (s.setAccerr).buf = s.buf := rfl
@[simp] theorem State.setAccerr_cReq : (s.setAccerr).cReq = s.cReq := rfl
@[simp] theorem State.setAccerr_cBsz : (s.setAccerr).cBsz = s.cBsz := rfl
@[simp] theorem State.setAccerr_hRdata : (s.setAccerr).hRdata = s.hRdata := rfl
@[simp] theorem State.setAccerr_cipher : (s.setAccerr).cipher = s.cipher := rfl
@[simp] theorem State.setAccerr_served : (s.setAccerr).served = s.served := rfl
@[simp] theorem State.setAccerr_rekeyed : (s.setAccerr).rekeyed = s.rekeyed := rfl
@[simp] theorem State.setAccerr_bufDraw : (s.setAccerr).bufDraw = s.bufDraw := rfl
@[simp] theorem State.setAccerr_draws : (s.setAccerr).draws = s.draws := rfl
@[simp] theorem State.setAccerr_events : (s.setAccerr).events = s.events := rfl

@[simp] theorem State.setWbusy_bufLog : (s.setWbusy).bufLog = s.bufLog := rfl
@[simp] theorem State.setWbusy_status : (s.setWbusy).status = { s.status with wbusy := true } := rfl
@[simp] theorem State.setWbusy_ivAddr : (s.setWbusy).ivAddr = s.ivAddr := rfl
@[simp] theorem State.setWbusy_ivLen : (s.setWbusy).ivLen = s.ivLen := rfl
@[simp] theorem State.setWbusy_aadAddr : (s.setWbusy).aadAddr = s.aadAddr := rfl
@[simp] theorem State.setWbusy_aadLen : (s.setWbusy).aadLen = s.aadLen := rfl
@[simp] theorem State.setWbusy_inAddr : (s.setWbusy).inAddr = s.inAddr := rfl
@[simp] theorem State.setWbusy_inLen : (s.setWbusy).inLen = s.inLen := rfl
@[simp] theorem State.setWbusy_outAddr : (s.setWbusy).outAddr = s.outAddr := rfl
@[simp] theorem State.setWbusy_opa : (s.setWbusy).opa = s.opa := rfl
@[simp] theorem State.setWbusy_opb : (s.setWbusy).opb = s.opb := rfl
@[simp] theorem State.setWbusy_res : (s.setWbusy).res = s.res := rfl
@[simp] theorem State.setWbusy_tag : (s.setWbusy).tag = s.tag := rfl
@[simp] theorem State.setWbusy_hidden : (s.setWbusy).hidden = s.hidden := rfl
@[simp] theorem State.setWbusy_cmdl : (s.setWbusy).cmdl = s.cmdl := rfl
@[simp] theorem State.setWbusy_cbszl : (s.setWbusy).cbszl = s.cbszl := rfl
@[simp] theorem State.setWbusy_seq : (s.setWbusy).seq = s.seq := rfl
@[simp] theorem State.setWbusy_buf : (s.setWbusy).buf = s.buf := rfl
@[simp] theorem State.setWbusy_cReq : (s.setWbusy).cReq = s.cReq := rfl
@[simp] theorem State.setWbusy_cBsz : (s.setWbusy).cBsz = s.cBsz := rfl
@[simp] theorem State.setWbusy_hRdata : (s.setWbusy).hRdata = s.hRdata := rfl
@[simp] theorem State.setWbusy_cipher : (s.setWbusy).cipher = s.cipher := rfl
@[simp] theorem State.setWbusy_served : (s.setWbusy).served = s.served := rfl
@[simp] theorem State.setWbusy_rekeyed : (s.setWbusy).rekeyed = s.rekeyed := rfl
@[simp] theorem State.setWbusy_bufDraw : (s.setWbusy).bufDraw = s.bufDraw := rfl
@[simp] theorem State.setWbusy_draws : (s.setWbusy).draws = s.draws := rfl
@[simp] theorem State.setWbusy_events : (s.setWbusy).events = s.events := rfl

@[simp] theorem State.finish_bufLog : (s.finish e).bufLog = s.bufLog := rfl
@[simp] theorem State.finish_status : (s.finish e).status = { s.status with done := true, err := e } := rfl
@[simp] theorem State.finish_ivAddr : (s.finish e).ivAddr = s.ivAddr := rfl
@[simp] theorem State.finish_ivLen : (s.finish e).ivLen = s.ivLen := rfl
@[simp] theorem State.finish_aadAddr : (s.finish e).aadAddr = s.aadAddr := rfl
@[simp] theorem State.finish_aadLen : (s.finish e).aadLen = s.aadLen := rfl
@[simp] theorem State.finish_inAddr : (s.finish e).inAddr = s.inAddr := rfl
@[simp] theorem State.finish_inLen : (s.finish e).inLen = s.inLen := rfl
@[simp] theorem State.finish_outAddr : (s.finish e).outAddr = s.outAddr := rfl
@[simp] theorem State.finish_opa : (s.finish e).opa = s.opa := rfl
@[simp] theorem State.finish_opb : (s.finish e).opb = s.opb := rfl
@[simp] theorem State.finish_res : (s.finish e).res = s.res := rfl
@[simp] theorem State.finish_tag : (s.finish e).tag = s.tag := rfl
@[simp] theorem State.finish_hidden : (s.finish e).hidden = Hidden.zero := rfl
@[simp] theorem State.finish_cmdl : (s.finish e).cmdl = s.cmdl := rfl
@[simp] theorem State.finish_cbszl : (s.finish e).cbszl = s.cbszl := rfl
@[simp] theorem State.finish_seq : (s.finish e).seq = .idle := rfl
@[simp] theorem State.finish_buf : (s.finish e).buf = s.buf := rfl
@[simp] theorem State.finish_cReq : (s.finish e).cReq = none := rfl
@[simp] theorem State.finish_cBsz : (s.finish e).cBsz = s.cBsz := rfl
@[simp] theorem State.finish_hRdata : (s.finish e).hRdata = s.hRdata := rfl
@[simp] theorem State.finish_cipher : (s.finish e).cipher = s.cipher := rfl
@[simp] theorem State.finish_served : (s.finish e).served = 0 := rfl
@[simp] theorem State.finish_rekeyed : (s.finish e).rekeyed = false := rfl
@[simp] theorem State.finish_bufDraw : (s.finish e).bufDraw = s.bufDraw := rfl
@[simp] theorem State.finish_draws : (s.finish e).draws = s.draws := rfl
@[simp] theorem State.finish_events : (s.finish e).events = s.events := rfl

@[simp] theorem State.issue_bufLog : (s.issue w).bufLog = s.bufLog := rfl
@[simp] theorem State.issue_status : (s.issue w).status = s.status.clearOutcome := rfl
@[simp] theorem State.issue_ivAddr : (s.issue w).ivAddr = s.ivAddr := rfl
@[simp] theorem State.issue_ivLen : (s.issue w).ivLen = s.ivLen := rfl
@[simp] theorem State.issue_aadAddr : (s.issue w).aadAddr = s.aadAddr := rfl
@[simp] theorem State.issue_aadLen : (s.issue w).aadLen = s.aadLen := rfl
@[simp] theorem State.issue_inAddr : (s.issue w).inAddr = s.inAddr := rfl
@[simp] theorem State.issue_inLen : (s.issue w).inLen = s.inLen := rfl
@[simp] theorem State.issue_outAddr : (s.issue w).outAddr = s.outAddr := rfl
@[simp] theorem State.issue_opa : (s.issue w).opa = s.opa := rfl
@[simp] theorem State.issue_opb : (s.issue w).opb = s.opb := rfl
@[simp] theorem State.issue_res : (s.issue w).res = s.res := rfl
@[simp] theorem State.issue_tag : (s.issue w).tag = s.tag := rfl
@[simp] theorem State.issue_hidden : (s.issue w).hidden = s.hidden := rfl
@[simp] theorem State.issue_cmdl : (s.issue w).cmdl = w := rfl
@[simp] theorem State.issue_cbszl : (s.issue w).cbszl = s.cBsz := rfl
@[simp] theorem State.issue_seq : (s.issue w).seq = .busy := rfl
@[simp] theorem State.issue_buf : (s.issue w).buf = s.buf := rfl
@[simp] theorem State.issue_cReq : (s.issue w).cReq = none := rfl
@[simp] theorem State.issue_cBsz : (s.issue w).cBsz = s.cBsz := rfl
@[simp] theorem State.issue_hRdata : (s.issue w).hRdata = s.hRdata := rfl
@[simp] theorem State.issue_cipher : (s.issue w).cipher = s.cipher := rfl
@[simp] theorem State.issue_served : (s.issue w).served = 0 := rfl
@[simp] theorem State.issue_rekeyed : (s.issue w).rekeyed = false := rfl
@[simp] theorem State.issue_bufDraw : (s.issue w).bufDraw = s.bufDraw := rfl
@[simp] theorem State.issue_draws : (s.issue w).draws = s.draws := rfl
@[simp] theorem State.issue_events : (s.issue w).events = s.events := rfl

@[simp] theorem State.answer_bufLog : (s.answer w).bufLog = s.bufLog := rfl
@[simp] theorem State.answer_status : (s.answer w).status = s.status := rfl
@[simp] theorem State.answer_ivAddr : (s.answer w).ivAddr = s.ivAddr := rfl
@[simp] theorem State.answer_ivLen : (s.answer w).ivLen = s.ivLen := rfl
@[simp] theorem State.answer_aadAddr : (s.answer w).aadAddr = s.aadAddr := rfl
@[simp] theorem State.answer_aadLen : (s.answer w).aadLen = s.aadLen := rfl
@[simp] theorem State.answer_inAddr : (s.answer w).inAddr = s.inAddr := rfl
@[simp] theorem State.answer_inLen : (s.answer w).inLen = s.inLen := rfl
@[simp] theorem State.answer_outAddr : (s.answer w).outAddr = s.outAddr := rfl
@[simp] theorem State.answer_opa : (s.answer w).opa = s.opa := rfl
@[simp] theorem State.answer_opb : (s.answer w).opb = s.opb := rfl
@[simp] theorem State.answer_res : (s.answer w).res = s.res := rfl
@[simp] theorem State.answer_tag : (s.answer w).tag = s.tag := rfl
@[simp] theorem State.answer_hidden : (s.answer w).hidden = s.hidden := rfl
@[simp] theorem State.answer_cmdl : (s.answer w).cmdl = s.cmdl := rfl
@[simp] theorem State.answer_cbszl : (s.answer w).cbszl = s.cbszl := rfl
@[simp] theorem State.answer_seq : (s.answer w).seq = s.seq := rfl
@[simp] theorem State.answer_buf : (s.answer w).buf = s.buf := rfl
@[simp] theorem State.answer_cReq : (s.answer w).cReq = s.cReq := rfl
@[simp] theorem State.answer_cBsz : (s.answer w).cBsz = s.cBsz := rfl
@[simp] theorem State.answer_hRdata : (s.answer w).hRdata = some w := rfl
@[simp] theorem State.answer_cipher : (s.answer w).cipher = s.cipher := rfl
@[simp] theorem State.answer_served : (s.answer w).served = s.served := rfl
@[simp] theorem State.answer_rekeyed : (s.answer w).rekeyed = s.rekeyed := rfl
@[simp] theorem State.answer_bufDraw : (s.answer w).bufDraw = s.bufDraw := rfl
@[simp] theorem State.answer_draws : (s.answer w).draws = s.draws := rfl
@[simp] theorem State.answer_events : (s.answer w).events = s.events := rfl

@[simp] theorem State.request_bufLog : (s.request b).bufLog = s.bufLog := rfl
@[simp] theorem State.request_status : (s.request b).status = s.status := rfl
@[simp] theorem State.request_ivAddr : (s.request b).ivAddr = s.ivAddr := rfl
@[simp] theorem State.request_ivLen : (s.request b).ivLen = s.ivLen := rfl
@[simp] theorem State.request_aadAddr : (s.request b).aadAddr = s.aadAddr := rfl
@[simp] theorem State.request_aadLen : (s.request b).aadLen = s.aadLen := rfl
@[simp] theorem State.request_inAddr : (s.request b).inAddr = s.inAddr := rfl
@[simp] theorem State.request_inLen : (s.request b).inLen = s.inLen := rfl
@[simp] theorem State.request_outAddr : (s.request b).outAddr = s.outAddr := rfl
@[simp] theorem State.request_opa : (s.request b).opa = s.opa := rfl
@[simp] theorem State.request_opb : (s.request b).opb = s.opb := rfl
@[simp] theorem State.request_res : (s.request b).res = s.res := rfl
@[simp] theorem State.request_tag : (s.request b).tag = s.tag := rfl
@[simp] theorem State.request_hidden : (s.request b).hidden = s.hidden := rfl
@[simp] theorem State.request_cmdl : (s.request b).cmdl = s.cmdl := rfl
@[simp] theorem State.request_cbszl : (s.request b).cbszl = s.cbszl := rfl
@[simp] theorem State.request_seq : (s.request b).seq = s.seq := rfl
@[simp] theorem State.request_buf : (s.request b).buf = s.buf := rfl
@[simp] theorem State.request_cReq : (s.request b).cReq = some b := rfl
@[simp] theorem State.request_cBsz : (s.request b).cBsz = s.cBsz := rfl
@[simp] theorem State.request_hRdata : (s.request b).hRdata = s.hRdata := rfl
@[simp] theorem State.request_cipher : (s.request b).cipher = s.cipher := rfl
@[simp] theorem State.request_served : (s.request b).served = s.served := rfl
@[simp] theorem State.request_rekeyed : (s.request b).rekeyed = s.rekeyed := rfl
@[simp] theorem State.request_bufDraw : (s.request b).bufDraw = s.bufDraw := rfl
@[simp] theorem State.request_draws : (s.request b).draws = s.draws := rfl
@[simp] theorem State.request_events : (s.request b).events = s.events := rfl

@[simp] theorem State.beginCycle_bufLog : (s.beginCycle evs).bufLog = s.bufLog := rfl
@[simp] theorem State.beginCycle_status : (s.beginCycle evs).status = s.status := rfl
@[simp] theorem State.beginCycle_ivAddr : (s.beginCycle evs).ivAddr = s.ivAddr := rfl
@[simp] theorem State.beginCycle_ivLen : (s.beginCycle evs).ivLen = s.ivLen := rfl
@[simp] theorem State.beginCycle_aadAddr : (s.beginCycle evs).aadAddr = s.aadAddr := rfl
@[simp] theorem State.beginCycle_aadLen : (s.beginCycle evs).aadLen = s.aadLen := rfl
@[simp] theorem State.beginCycle_inAddr : (s.beginCycle evs).inAddr = s.inAddr := rfl
@[simp] theorem State.beginCycle_inLen : (s.beginCycle evs).inLen = s.inLen := rfl
@[simp] theorem State.beginCycle_outAddr : (s.beginCycle evs).outAddr = s.outAddr := rfl
@[simp] theorem State.beginCycle_opa : (s.beginCycle evs).opa = s.opa := rfl
@[simp] theorem State.beginCycle_opb : (s.beginCycle evs).opb = s.opb := rfl
@[simp] theorem State.beginCycle_res : (s.beginCycle evs).res = s.res := rfl
@[simp] theorem State.beginCycle_tag : (s.beginCycle evs).tag = s.tag := rfl
@[simp] theorem State.beginCycle_hidden : (s.beginCycle evs).hidden = s.hidden := rfl
@[simp] theorem State.beginCycle_cmdl : (s.beginCycle evs).cmdl = s.cmdl := rfl
@[simp] theorem State.beginCycle_cbszl : (s.beginCycle evs).cbszl = s.cbszl := rfl
@[simp] theorem State.beginCycle_seq : (s.beginCycle evs).seq = s.seq := rfl
@[simp] theorem State.beginCycle_buf : (s.beginCycle evs).buf = s.buf := rfl
@[simp] theorem State.beginCycle_cReq : (s.beginCycle evs).cReq = s.cReq := rfl
@[simp] theorem State.beginCycle_cBsz : (s.beginCycle evs).cBsz = s.cBsz := rfl
@[simp] theorem State.beginCycle_hRdata : (s.beginCycle evs).hRdata = none := rfl
@[simp] theorem State.beginCycle_cipher : (s.beginCycle evs).cipher = s.cipher := rfl
@[simp] theorem State.beginCycle_served : (s.beginCycle evs).served = s.served := rfl
@[simp] theorem State.beginCycle_rekeyed : (s.beginCycle evs).rekeyed = s.rekeyed := rfl
@[simp] theorem State.beginCycle_bufDraw : (s.beginCycle evs).bufDraw = s.bufDraw := rfl
@[simp] theorem State.beginCycle_draws : (s.beginCycle evs).draws = s.draws := rfl
@[simp] theorem State.beginCycle_events : (s.beginCycle evs).events = evs := rfl

@[simp] theorem State.cleared_bufLog : s.cleared.bufLog = s.bufLog := rfl
@[simp] theorem State.cleared_status : s.cleared.status = s.status := rfl
@[simp] theorem State.cleared_ivAddr : s.cleared.ivAddr = s.written (Config.rekeyWord s.draws 0) 0 := rfl
@[simp] theorem State.cleared_ivLen : s.cleared.ivLen = s.written (Config.rekeyWord s.draws 1) 0 := rfl
@[simp] theorem State.cleared_aadAddr : s.cleared.aadAddr = s.written (Config.rekeyWord s.draws 2) 0 := rfl
@[simp] theorem State.cleared_aadLen : s.cleared.aadLen = s.written (Config.rekeyWord s.draws 3) 0 := rfl
@[simp] theorem State.cleared_inAddr : s.cleared.inAddr = s.written (Config.rekeyWord s.draws 4) 0 := rfl
@[simp] theorem State.cleared_inLen : s.cleared.inLen = s.written (Config.rekeyWord s.draws 5) 0 := rfl
@[simp] theorem State.cleared_outAddr : s.cleared.outAddr = s.written (Config.rekeyWord s.draws 6) 0 := rfl
@[simp] theorem State.cleared_opa : s.cleared.opa = s.written (Config.rekeyBlock s.draws 2) 0 := rfl
@[simp] theorem State.cleared_opb : s.cleared.opb = s.written (Config.rekeyBlock s.draws 3) 0 := rfl
@[simp] theorem State.cleared_res : s.cleared.res = s.written (Config.rekeyBlock s.draws 0) 0 := rfl
@[simp] theorem State.cleared_tag : s.cleared.tag = s.written (Config.rekeyBlock s.draws 1) 0 := rfl
@[simp] theorem State.cleared_hidden : s.cleared.hidden = s.hidden := rfl
@[simp] theorem State.cleared_cmdl : s.cleared.cmdl = s.cmdl := rfl
@[simp] theorem State.cleared_cbszl : s.cleared.cbszl = s.cbszl := rfl
@[simp] theorem State.cleared_seq : s.cleared.seq = s.seq := rfl
@[simp] theorem State.cleared_buf :
    s.cleared.buf = Memory.filled s.bufBytes fun a => s.written (Config.rekeyByte s.draws a) 0 := rfl
@[simp] theorem State.cleared_cReq : s.cleared.cReq = s.cReq := rfl
@[simp] theorem State.cleared_cBsz : s.cleared.cBsz = s.cBsz := rfl
@[simp] theorem State.cleared_hRdata : s.cleared.hRdata = s.hRdata := rfl
@[simp] theorem State.cleared_cipher : s.cleared.cipher = s.cipher := rfl
@[simp] theorem State.cleared_served : s.cleared.served = s.served := rfl
@[simp] theorem State.cleared_rekeyed : s.cleared.rekeyed = s.rekeyed := rfl
@[simp] theorem State.cleared_bufDraw : s.cleared.bufDraw = s.bufDraw := rfl
@[simp] theorem State.cleared_draws : s.cleared.draws = s.draws := rfl
@[simp] theorem State.cleared_events : s.cleared.events = s.events := rfl

/-- In a window without a rekey a command writes its rule's value. -/
@[simp] theorem State.written_clean {α : Type} {s : State} (hk : s.rekeyed = false) (free rule : α) :
    s.written free rule = rule := by simp [State.written, hk]

/-- In a rekeyed window a command writes the free value. -/
@[simp] theorem State.written_rekeyed {α : Type} {s : State} (hk : s.rekeyed = true) (free rule : α) :
    s.written free rule = free := by simp [State.written, hk]

theorem State.writeRes_eq : s.writeRes b = s.setRes (s.written (Config.rekeyBlock s.draws 0) b) := rfl
theorem State.writeTag_eq : s.writeTag b = s.setTag (s.written (Config.rekeyBlock s.draws 1) b) := rfl
theorem State.writeAuth_eq : s.writeAuth ok fail = s.setAuth (s.written (Config.rekeyAuthOk s.draws) ok)
    (s.written (Config.rekeyAuthFail s.draws && !Config.rekeyAuthOk s.draws) fail) := rfl
theorem State.writeBytes_eq : s.writeBytes a bs =
    s.memWrite a (s.written ((List.range bs.length).map (Config.rekeyByte s.draws)) bs) := rfl

@[simp] theorem raiseErr_eq : raiseErr e s = s.finish e := rfl

end Updates

end Sys2Proof.Machine
end

