-- ==== Sys2Proof/Laws/Memory.lean ====
section
/-! SUPPORT. BUF: read after write, and every memory operation keeps the canonical form and the bound. -/

namespace Sys2Proof.Machine

namespace Memory

@[simp] theorem get?_set_same (m : Memory) (a : Nat) (v : Byte) : get? (set m a v) a = some v := by
  induction m with
  | nil => simp [set, get?]
  | cons c m ih =>
    obtain ⟨b, x⟩ := c
    simp only [set]
    split
    · simp [get?]
    · split
      · simp [get?]
      · simp only [get?]
        split
        · omega
        · exact ih

theorem get?_set_other {a b : Nat} (h : b ≠ a) (m : Memory) (v : Byte) : get? (set m a v) b = get? m b := by
  induction m with
  | nil => simp [set, get?, h.symm]
  | cons c m ih =>
    obtain ⟨d, x⟩ := c
    simp only [set]
    split
    · simp [get?, h.symm]
    · split
      · next hd => subst hd; simp [get?, h.symm]
      · simp only [get?, ih]

theorem get?_setBytes_outside {b : Nat} (bs : List Byte) (m : Memory) (a : Nat)
    (h : b < a ∨ a + bs.length ≤ b) : get? (setBytes m a bs) b = get? m b := by
  induction bs generalizing m a with
  | nil => rfl
  | cons v vs ih =>
    simp only [List.length_cons] at h
    rw [setBytes, ih _ _ (by omega), get?_set_other (by omega)]

theorem get?_setBytes_inside (bs : List Byte) (m : Memory) (a k : Nat) (h : k < bs.length) :
    get? (setBytes m a bs) (a + k) = some bs[k] := by
  induction bs generalizing m a k with
  | nil => simp at h
  | cons v vs ih =>
    rw [setBytes]
    cases k with
    | zero => rw [get?_setBytes_outside _ _ _ (by omega)]; simp
    | succ k =>
      have := ih (set m a v) (a + 1) k (by simpa using h)
      rw [show a + (k + 1) = a + 1 + k by omega, this]
      rfl

theorem risingFrom_mono {lo lo' : Nat} (h : lo ≤ lo') : ∀ {m : Memory}, risingFrom lo' m = true → risingFrom lo m = true
  | [], _ => rfl
  | (a, _) :: m, hm => by
    simp only [risingFrom, Bool.and_eq_true, decide_eq_true_eq] at hm ⊢
    exact ⟨by omega, hm.2⟩

theorem risingFrom_set (m : Memory) (lo a : Nat) (v : Byte) (ha : lo ≤ a) (hm : risingFrom lo m = true) :
    risingFrom lo (set m a v) = true := by
  induction m generalizing lo with
  | nil => simp [set, risingFrom, ha]
  | cons c m ih =>
    obtain ⟨b, x⟩ := c
    simp only [risingFrom, Bool.and_eq_true, decide_eq_true_eq] at hm
    simp only [set]
    split
    · next hlt => simp [risingFrom, ha, hm.2]; omega
    · split
      · next heq => subst heq; simp [risingFrom, ha, hm.2]
      · next h1 h2 => simp [risingFrom, hm.1, ih (b + 1) (by omega) hm.2]

theorem within_set {n a : Nat} (ha : a < n) (v : Byte) : ∀ {m : Memory}, within n m = true → within n (set m a v) = true
  | [], _ => by simp [set, within, ha]
  | (b, x) :: m, hm => by
    have hm' : b < n ∧ within n m = true := by simpa [within] using hm
    simp only [set]
    split
    · simpa [within, ha] using hm'
    · split
      · simpa [within, ha] using hm'.2
      · have := within_set ha v hm'.2
        simpa [within, hm'.1] using this

/-- Every write of one byte keeps the canonical form. -/
theorem wf_set (m : Memory) (a : Nat) (v : Byte) (hm : wf m = true) : wf (set m a v) = true :=
  risingFrom_set m 0 a v (Nat.zero_le _) hm

/-- MemWrite and the host's word write keep the canonical form. -/
theorem wf_setBytes (bs : List Byte) (m : Memory) (a : Nat) (hm : wf m = true) : wf (setBytes m a bs) = true := by
  induction bs generalizing m a with
  | nil => exact hm
  | cons v vs ih => exact ih _ _ (wf_set m a v hm)

/-- A write inside BUF stays inside BUF. -/
theorem within_setBytes {n : Nat} (bs : List Byte) (m : Memory) (a : Nat) (ha : a + bs.length ≤ n)
    (hm : within n m = true) : within n (setBytes m a bs) = true := by
  induction bs generalizing m a with
  | nil => exact hm
  | cons v vs ih =>
    simp only [List.length_cons] at ha
    exact ih _ _ (by omega) (within_set (by omega) v hm)

theorem risingFrom_fill (f : Nat → Byte) (n lo : Nat) :
    risingFrom lo ((List.range' lo n).map fun a => (a, f a)) = true := by
  induction n generalizing lo with
  | zero => rfl
  | succ n ih => simpa [List.range'_succ, risingFrom] using ih (lo + 1)

/-- The memory CLEAR leaves is canonical. -/
theorem wf_filled (n : Nat) (f : Nat → Byte) : wf (filled n f) = true := by
  simpa [wf, filled, List.range_eq_range'] using risingFrom_fill f n 0

theorem within_filled (n : Nat) (f : Nat → Byte) : within n (filled n f) = true := by
  simp [within, filled]

theorem get?_fill (f : Nat → Byte) {lo a : Nat} (n : Nat) (h1 : lo ≤ a) (h2 : a < lo + n) :
    get? ((List.range' lo n).map fun a => (a, f a)) a = some (f a) := by
  induction n generalizing lo with
  | zero => omega
  | succ n ih =>
    simp only [List.range'_succ, List.map_cons, get?]
    split
    · next h => rw [h]
    · exact ih (by omega) (by omega)

/-- After CLEAR every byte of BUF is written. -/
theorem get?_filled {n a : Nat} (f : Nat → Byte) (h : a < n) : get? (filled n f) a = some (f a) := by
  simpa [filled, List.range_eq_range'] using get?_fill f n (Nat.zero_le a) (by omega)

end Memory

/-- A byte outside the bytes MemWrite stores reads as before. -/
theorem readByte_memWrite_outside (s : State) (a b : Nat) (bs : List Byte) (h : b < a ∨ a + bs.length ≤ b) :
    (s.memWrite a bs).readByte b = s.readByte b := by
  simp [State.readByte, Memory.get?_setBytes_outside bs s.buf a h]

/-- A byte MemWrite stores reads as stored. -/
theorem readByte_memWrite_inside (s : State) (a k : Nat) (bs : List Byte) (h : k < bs.length) :
    (s.memWrite a bs).readByte (a + k) = bs[k] := by
  simp [State.readByte, Memory.get?_setBytes_inside bs s.buf a k h]

@[simp] theorem length_memRead (s : State) (a n : Nat) : (s.memRead a n).length = n := by
  simp [State.memRead]

/-- The bytes a state reads are fixed by BUF and the draw of its unwritten bytes. -/
theorem readByte_congr {s t : State} (hb : t.buf = s.buf) (hd : t.bufDraw = s.bufDraw) (a : Nat) :
    t.readByte a = s.readByte a := by
  simp [State.readByte, hb, hd]

theorem memRead_congr {s t : State} (hb : t.buf = s.buf) (hd : t.bufDraw = s.bufDraw) (a n : Nat) :
    t.memRead a n = s.memRead a n := by
  simp [State.memRead, readByte_congr hb hd]

end Sys2Proof.Machine
end

