-- ==== Sys2Proof/Laws/Blocks.lean ====
section
/-! SUPPORT. Byte sequences, blocks and chunks (00_scope.md R6, R8), and the keystream transform over them. -/

namespace Sys2Proof.Machine

/-- A block from its leftmost 96 and rightmost 32 bits, as a number. -/
theorem toNat_append_96_32 (a : BitVec 96) (b : BitVec 32) : (a ++ b : Block).toNat = a.toNat * 2 ^ 32 + b.toNat := by
  have := BitVec.toNat_append a b
  rw [← Nat.shiftLeft_add_eq_or_of_lt b.isLt, Nat.shiftLeft_eq] at this
  exact this

/-- A block from its two halves, as a number. -/
theorem toNat_append_64_64 (a b : BitVec 64) : (a ++ b : Block).toNat = a.toNat * 2 ^ 64 + b.toNat := by
  have := BitVec.toNat_append a b
  rw [← Nat.shiftLeft_add_eq_or_of_lt b.isLt, Nat.shiftLeft_eq] at this
  exact this

/-- Four words side by side, as a number. -/
theorem toNat_words (a b c d : Word) :
    (a ++ b ++ c ++ d : Block).toNat = ((a.toNat * 2 ^ 32 + b.toNat) * 2 ^ 32 + c.toNat) * 2 ^ 32 + d.toNat := by
  have h : ∀ {n} (x : BitVec n) (y : Word), (x ++ y).toNat = x.toNat * 2 ^ 32 + y.toNat := by
    intro n x y
    rw [BitVec.toNat_append, ← Nat.shiftLeft_add_eq_or_of_lt y.isLt, Nat.shiftLeft_eq]
  rw [h, h, h]

/-- The words of a block built from four words (R11). -/
theorem blockWord_words (a b c d : Word) (k : Fin 4) :
    blockWord (a ++ b ++ c ++ d) k = if k = 0 then a else if k = 1 then b else if k = 2 then c else d := by
  have ha := a.isLt
  have hb := b.isLt
  have hc := c.isLt
  have hd := d.isLt
  apply BitVec.eq_of_toNat_eq
  unfold blockWord
  rw [BitVec.extractLsb'_toNat, toNat_words, Nat.shiftRight_eq_div_pow]
  have hk : k = 0 ∨ k = 1 ∨ k = 2 ∨ k = 3 := by omega
  rcases hk with rfl | rfl | rfl | rfl <;> simp <;> omega

/-- A word write changes that word and no other (R11). -/
theorem blockWord_setBlockWord (b : Block) (j k : Fin 4) (w : Word) :
    blockWord (setBlockWord b j w) k = if k = j then w else blockWord b k := by
  unfold setBlockWord
  rw [blockWord_words]
  have hk : k = 0 ∨ k = 1 ∨ k = 2 ∨ k = 3 := by omega
  have hj : j = 0 ∨ j = 1 ∨ j = 2 ∨ j = 3 := by omega
  rcases hk with rfl | rfl | rfl | rfl <;> rcases hj with rfl | rfl | rfl | rfl <;> rfl

@[simp] theorem length_bytesOf (b : Block) : (bytesOf b).length = 16 := by simp [bytesOf]

/-- A byte sequence as a big-endian number. -/
def bytesVal (s : List Byte) : Nat := s.foldl (fun n b => n * 256 + b.toNat) 0

theorem bytesVal_snoc (s : List Byte) (b : Byte) : bytesVal (s ++ [b]) = bytesVal s * 256 + b.toNat := by
  simp [bytesVal]

theorem bytesVal_lt (s : List Byte) : bytesVal s < 256 ^ s.length := by
  induction s using List.reverseRecOn with
  | nil => simp [bytesVal]
  | append_singleton s b ih =>
    have := b.isLt
    rw [bytesVal_snoc]; simp [Nat.pow_succ]; omega

theorem toNat_shiftIn (x : Block) (b : Byte) (h : x.toNat < 2 ^ 120) :
    ((x <<< 8) ||| b.zeroExtend 128).toNat = x.toNat * 256 + b.toNat := by
  have hb := b.isLt
  simp only [BitVec.toNat_or, BitVec.toNat_shiftLeft, BitVec.zeroExtend, BitVec.toNat_setWidth]
  rw [Nat.shiftLeft_eq, Nat.mod_eq_of_lt (by omega), Nat.mod_eq_of_lt (by omega), ← Nat.shiftLeft_eq,
    ← Nat.shiftLeft_add_eq_or_of_lt hb, Nat.shiftLeft_eq]

theorem toNat_blockOf (s : List Byte) (h : s.length ≤ 16) : (blockOf s).toNat = bytesVal s := by
  induction s using List.reverseRecOn with
  | nil => rfl
  | append_singleton s b ih =>
    simp only [List.length_append, List.length_singleton] at h
    have hs := ih (by omega)
    have hlt := bytesVal_lt s
    have h15 : 256 ^ s.length ≤ 2 ^ 120 := by
      calc 256 ^ s.length ≤ 256 ^ 15 := Nat.pow_le_pow_right (by omega) (by omega)
        _ = 2 ^ 120 := by norm_num
    have : blockOf (s ++ [b]) = (blockOf s <<< 8) ||| b.zeroExtend 128 := by simp [blockOf]
    rw [this, toNat_shiftIn _ _ (by omega), hs, bytesVal_snoc]

theorem bytesVal_digit (s : List Byte) (k : Nat) (h : k < s.length) :
    bytesVal s / 256 ^ (s.length - 1 - k) % 256 = (s[k]).toNat := by
  induction s using List.reverseRecOn with
  | nil => simp at h
  | append_singleton s b ih =>
    have hb := b.isLt
    rw [bytesVal_snoc]
    simp only [List.length_append, List.length_singleton] at h ⊢
    by_cases hk : k = s.length
    · subst hk; simp; omega
    · have hk' : k < s.length := by omega
      rw [show s.length + 1 - 1 - k = (s.length - 1 - k) + 1 by omega, Nat.pow_succ, Nat.mul_comm (256 ^ _),
        ← Nat.div_div_eq_div_mul, show (bytesVal s * 256 + b.toNat) / 256 = bytesVal s by omega, ih hk',
        List.getElem_append_left hk']

theorem blockByte_blockOf (s : List Byte) (h : s.length = 16) (k : Nat) (hk : k < 16) :
    blockByte (blockOf s) k = s[k] := by
  apply BitVec.eq_of_toNat_eq
  rw [← bytesVal_digit s k (by omega), blockByte, BitVec.extractLsb'_toNat, toNat_blockOf s (by omega),
    Nat.shiftRight_eq_div_pow, h, show 120 - 8 * k = 8 * (15 - k) by omega, Nat.pow_mul]

/-- `bytes(block(s)) = s` (R8). -/
theorem bytesOf_blockOf (s : List Byte) (h : s.length = 16) : bytesOf (blockOf s) = s := by
  apply List.ext_getElem
  · simp [h]
  · intro k h1 h2
    have hk : k < 16 := by simpa using h1
    simp [bytesOf, blockByte_blockOf s h k hk]
theorem length_trunc (b : Block) {u : Nat} (h : u ≤ 16) : (trunc b u).length = u := by
  simp [trunc, h]

theorem length_xorbytes {s t : List Byte} (h : s.length = t.length) : (xorbytes s t).length = s.length := by
  simp [xorbytes, h]

/-- XOR with the same keystream twice gives the bytes back. -/
theorem xorbytes_xorbytes (s t : List Byte) (h : s.length = t.length) : xorbytes (xorbytes s t) t = s := by
  induction s generalizing t with
  | nil => cases t <;> rfl
  | cons a s ih =>
    cases t with
    | nil => simp at h
    | cons b t =>
      have := ih t (by simpa using h)
      simp only [xorbytes] at this
      simp [xorbytes, this]

theorem chunkCount_zero : chunkCount 0 = 0 := rfl

/-- A longer sequence loses one chunk with its first 16 bytes. -/
theorem chunkCount_drop {n : Nat} (h : 0 < n) : chunkCount n = chunkCount (n - 16) + 1 := by
  unfold chunkCount; omega

theorem chunks_nil : chunks [] = [] := rfl

/-- The first chunk, and the chunks of the rest. -/
theorem chunks_cons {s : List Byte} (h : s ≠ []) : chunks s = s.take 16 :: chunks (s.drop 16) := by
  have hpos : 0 < s.length := List.length_pos_iff.mpr h
  simp [chunks, chunkCount_drop hpos, chunksN]

/-- Induction along the chunks of a sequence. -/
theorem chunk_induction {P : List Byte → Prop} (nil : P [])
    (step : ∀ s, s ≠ [] → P (s.drop 16) → P s) (s : List Byte) : P s := by
  induction hn : s.length using Nat.strong_induction_on generalizing s with
  | _ n ih =>
    by_cases hs : s = []
    · subst hs; exact nil
    · have : 0 < s.length := List.length_pos_iff.mpr hs
      exact step s hs (ih (s.drop 16).length (by simp; omega) _ rfl)

theorem ctr_nil (cipher : Block → Block) (y : Block) : ctr cipher y [] = [] := rfl

/-- One turn of the keystream loop. -/
theorem ctr_cons (cipher : Block → Block) (y : Block) {d : List Byte} (h : d ≠ []) :
    ctr cipher y d =
      xorbytes (d.take 16) (trunc (cipher (incr y)) (d.take 16).length) ++ ctr cipher (incr y) (d.drop 16) := by
  simp [ctr, chunks_cons h, ctrChunks]

end Sys2Proof.Machine
end

