-- ==== Sys2Proof/Laws/Counter.lean ====
section
/-! SUPPORT. The counter generator on numbers (43_counter.md R70). -/

namespace Sys2Proof.Machine

/-- incr, as a number: the high 96 bits stay, the low 32 count modulo 2^32. -/
theorem toNat_incr (b : Block) :
    (incr b).toNat = b.toNat / 2 ^ 32 * 2 ^ 32 + (b.toNat % 2 ^ 32 + 1) % 2 ^ 32 := by
  have h := b.isLt
  rw [incr, toNat_append_96_32]
  simp [Nat.shiftRight_eq_div_pow]
  omega

theorem counterBlock_succ (y : Block) (i : Nat) : counterBlock y (i + 1) = incr (counterBlock y i) := rfl

/-- Counting on from Y(1) is counting from Y0 one further. -/
theorem counterBlock_incr (y : Block) (i : Nat) : counterBlock (incr y) i = counterBlock y (i + 1) := by
  induction i with
  | zero => rfl
  | succ i ih => rw [counterBlock_succ, ih]; rfl

end Sys2Proof.Machine
end

