-- ==== Sys2Proof/Laws/Decode.lean ====
section
/-! SUPPORT. The fields of a command word as numbers (30_encoding.md R46). -/

namespace Sys2Proof

theorem toNat_opField (w : Word) : (opField w).toNat = w.toNat % 16 := by simp [opField]

theorem toNat_rsvField (w : Word) : (rsvField w).toNat = w.toNat / 16 := by
  have := w.isLt
  simp [rsvField, Nat.shiftRight_eq_div_pow]
  omega

theorem toNat_rsv_append_op (rsv : BitVec 28) (op : BitVec 4) :
    (rsv ++ op : Word).toNat = rsv.toNat * 16 + op.toNat := by
  have h := op.isLt
  have := BitVec.toNat_append rsv op
  rw [← Nat.shiftLeft_add_eq_or_of_lt h, Nat.shiftLeft_eq] at this
  exact this

@[simp] theorem rsvField_append (rsv : BitVec 28) (op : BitVec 4) : rsvField (rsv ++ op : Word) = rsv := by
  apply BitVec.eq_of_toNat_eq
  rw [toNat_rsvField, toNat_rsv_append_op]
  omega

@[simp] theorem opField_append (rsv : BitVec 28) (op : BitVec 4) : opField (rsv ++ op : Word) = op := by
  apply BitVec.eq_of_toNat_eq
  rw [toNat_opField, toNat_rsv_append_op]
  omega

/-- A word is its two fields. -/
theorem word_eq_fields (w : Word) : w = rsvField w ++ opField w := by
  apply BitVec.eq_of_toNat_eq
  rw [toNat_rsv_append_op, toNat_rsvField, toNat_opField]
  omega

end Sys2Proof
end

