-- ==== Sys2Proof/Laws/Exec.lean ====
section
/-! SUPPORT. What a completion step can do, said once per command; later proofs cite these and do not unfold the
meanings. -/

namespace Sys2Proof.Machine

/-- The checks of R86 as one equation. -/
theorem precheck_none_iff (s : State) : precheck s = none ↔ ChecksPass s := by
  unfold precheck ChecksPass
  by_cases h1 : s.cbszl = 16 <;> by_cases h2 : s.ivLen = 0 <;>
    cases regionValid s.bufBytes s.ivAddr s.ivLen <;> cases regionValid s.bufBytes s.aadAddr s.aadLen <;>
    cases regionValid s.bufBytes s.inAddr s.inLen <;> cases regionValid s.bufBytes s.outAddr s.inLen <;>
    cases regionOverlap s.outAddr s.inLen s.ivAddr s.ivLen <;>
    cases regionOverlap s.outAddr s.inLen s.aadAddr s.aadLen <;>
    cases regionOverlap s.outAddr s.inLen s.inAddr s.inLen <;> simp_all

/-- All an ENCRYPT does, update by update, in a window without a rekey (R80). -/
theorem encryptRule_eq (cipher : Block → Block) {s : State} (hk : s.rekeyed = false) :
    encryptRule cipher s =
      ((((s.memWrite s.outAddr.toNat (engineText cipher s)).setHidden
        (engineHidden cipher s (engineText cipher s) (chunkCount s.inLen.toNat))).setTag
        (gcmTag cipher (subkey cipher) (preCounter cipher s) s.aadBytes (engineText cipher s))).setAuth false false).finish
        .noError := by
  simp only [encryptRule, State.writeBytes_eq, State.writeTag_eq, State.writeAuth_eq, State.memWrite_rekeyed,
    State.setHidden_rekeyed, State.setTag_rekeyed, State.written, hk, if_false, Bool.false_eq_true]
  rfl

/-- All a DECRYPT that sets AUTHFAIL does, rekeyed or not (R81, R87). -/
theorem decryptRule_rejects {cipher : Block → Block} {s : State} {ok : Bool}
    (hw : s.writeAuth (decide (decryptTag cipher s = s.tag)) (decide (decryptTag cipher s ≠ s.tag)) = s.setAuth ok true) :
    decryptRule cipher s = ((s.setAuth ok true).setHidden (engineHidden cipher s s.inBytes 0)).finish .noError := by
  simp only [decryptRule, hw]
  rfl

/-- All a DECRYPT that does not set AUTHFAIL does, rekeyed or not (R81). -/
theorem decryptRule_opens {cipher : Block → Block} {s : State} {ok : Bool}
    (hw : s.writeAuth (decide (decryptTag cipher s = s.tag)) (decide (decryptTag cipher s ≠ s.tag)) = s.setAuth ok false) :
    decryptRule cipher s =
      (((s.setAuth ok false).setHidden (engineHidden cipher s s.inBytes (chunkCount s.inLen.toNat))).memWrite
        s.outAddr.toNat (s.written ((List.range (engineText cipher s).length).map (Config.rekeyByte s.draws))
          (engineText cipher s))).finish .noError := by
  simp only [decryptRule, hw]
  rfl

/-- All a DECRYPT with a matching tag does, in a window without a rekey (R81). -/
theorem decryptRule_match {cipher : Block → Block} {s : State} (hk : s.rekeyed = false) (h : decryptTag cipher s = s.tag) :
    decryptRule cipher s =
      (((s.setAuth true false).setHidden (engineHidden cipher s s.inBytes (chunkCount s.inLen.toNat))).memWrite
        s.outAddr.toNat (engineText cipher s)).finish .noError := by
  rw [decryptRule_opens (ok := true) (by simp [State.writeAuth_eq, hk, h]), State.written_clean hk]

/-- All a DECRYPT with a mismatching tag does, in a window without a rekey (R81). -/
theorem decryptRule_mismatch {cipher : Block → Block} {s : State} (hk : s.rekeyed = false)
    (h : decryptTag cipher s ≠ s.tag) :
    decryptRule cipher s = ((s.setAuth false true).setHidden (engineHidden cipher s s.inBytes 0)).finish .noError :=
  decryptRule_rejects (by simp [State.writeAuth_eq, hk, h])

theorem exec_gfmul (s : State) :
    exec .gfmul s = .next (((s.writeRes (multiply s.opa s.opb)).writeAuth false false).finish .noError) := rfl

theorem exec_incr (s : State) : exec .incr s = .next ((s.writeRes (incr s.opa)).finish .noError) := rfl

theorem exec_ghash_error {s : State} {e : ErrCode} (h : ghashCheck s = some e) :
    exec .ghash s = .next (s.finish e) := by simp [exec, execGhash, h]

theorem exec_ghash_ok {s : State} (h : ghashCheck s = none) :
    exec .ghash s = .next ((s.writeRes (ghash s.opa s.aadBytes s.inBytes)).finish .noError) := by
  simp [exec, execGhash, h]

theorem exec_y0derive_error {s : State} {e : ErrCode} (h : y0Check s = some e) :
    exec .y0derive s = .next (s.finish e) := by simp [exec, execY0derive, h]

theorem exec_y0derive_ok {s : State} (h : y0Check s = none) :
    exec .y0derive s = .next ((s.writeRes (y0 s.opa s.ivBytes)).finish .noError) := by
  simp [exec, execY0derive, h]

theorem exec_encrypt_error {s : State} {e : ErrCode} (h : precheck s = some e) :
    exec .encrypt s = .next (s.finish e) := by simp [exec, execEncrypt, h]

theorem exec_encrypt_ok {s : State} (h : precheck s = none) :
    exec .encrypt s = .next (encryptRule s.cipher.apply s) := by simp [exec, execEncrypt, h]

theorem exec_decrypt_error {s : State} {e : ErrCode} (h : precheck s = some e) :
    exec .decrypt s = .next ((s.setAuth false false).finish e) := by simp [exec, execDecrypt, h]

theorem exec_decrypt_ok {s : State} (h : precheck s = none) :
    exec .decrypt s = .next (decryptRule s.cipher.apply s) := by simp [exec, execDecrypt, h]

theorem exec_clear (s : State) : exec .clear s = .next (s.cleared.finish .noError) := rfl

/-- How `finish` ends a command that left the sticky flags alone (R26). -/
theorem ended_finish {s u : State} (e : ErrCode) (hw : u.status.wbusy = s.status.wbusy)
    (ha : u.status.accerr = s.status.accerr) : Ended s (u.finish e) e :=
  ⟨rfl, rfl, rfl, rfl, hw, ha, rfl, rfl, rfl⟩

/-- What an error does, and nothing else (R95). -/
theorem errorEnd_finish (s : State) (e : ErrCode) : ErrorEnd s (s.finish e) e :=
  ⟨ended_finish e rfl rfl, ⟨rfl, rfl, rfl, rfl, rfl, rfl, rfl⟩, ⟨rfl, rfl⟩, rfl, rfl, rfl, rfl,
    ⟨rfl, rfl, rfl, rfl, rfl, rfl, rfl, rfl⟩⟩

/-- `finish` writes nothing outside a command's reach. -/
theorem sameOutside_finish {s u : State} (e : ErrCode) (h : SameOutside s u) : SameOutside s (u.finish e) := h

/-- The states a completion step can end in, before `finish` (R26). -/
inductive Wrote (s : State) : State → ErrCode → Prop
  /-- An error, with no effect (R95). -/
  | error (e : ErrCode) : Wrote s s e
  /-- An error of DECRYPT (R81). -/
  | decryptError (e : ErrCode) : Wrote s (s.setAuth false false) e
  /-- A unit command's result (R14). -/
  | result (v : Block) : Wrote s (s.setRes v) .noError
  /-- GFMUL's result (R51). -/
  | product (v : Block) (ok fail : Bool) (ha : ¬(ok = true ∧ fail = true)) :
      Wrote s ((s.setRes v).setAuth ok fail) .noError
  /-- An ENCRYPT (R80). -/
  | sealed (bs : List Byte) (h : Hidden) (v : Block) (ok fail : Bool) (ha : ¬(ok = true ∧ fail = true))
      (hl : bs.length = s.inLen.toNat) (hp : ChecksPass s) :
      Wrote s ((((s.memWrite s.outAddr.toNat bs).setHidden h).setTag v).setAuth ok fail) .noError
  /-- A DECRYPT that did not set AUTHFAIL (R81). -/
  | opened (bs : List Byte) (h : Hidden) (ok : Bool) (hl : bs.length = s.inLen.toNat) (hp : ChecksPass s) :
      Wrote s (((s.setAuth ok false).setHidden h).memWrite s.outAddr.toNat bs) .noError
  /-- A DECRYPT that set AUTHFAIL (R81). -/
  | rejected (h : Hidden) : Wrote s ((s.setAuth false true).setHidden h) .noError
  /-- CLEAR (R90). -/
  | cleared : Wrote s s.cleared .noError

/-- The keystream transform keeps the length of every chunk list whose chunks have at most 16 bytes. -/
theorem length_ctrChunks (cipher : Block → Block) (cs : List (List Byte)) (y : Block) (h : ∀ c ∈ cs, c.length ≤ 16) :
    (ctrChunks cipher y cs).length = (cs.map List.length).sum := by
  induction cs generalizing y with
  | nil => rfl
  | cons c cs ih =>
    have hc : c.length ≤ 16 := h c (by simp)
    simp [ctrChunks, length_xorbytes (length_trunc _ hc).symm, ih _ fun d hd => h d (by simp [hd])]

theorem length_chunksN_sum (n : Nat) (s : List Byte) (h : s.length ≤ 16 * n) :
    ((chunksN n s).map List.length).sum = s.length := by
  induction n generalizing s with
  | zero => simp at h; simp [chunksN, h]
  | succ n ih => simp [chunksN, ih (s.drop 16) (by simp; omega)]; omega

theorem length_le_of_mem_chunksN {c : List Byte} (n : Nat) (s : List Byte) (h : c ∈ chunksN n s) : c.length ≤ 16 := by
  induction n generalizing s with
  | zero => simp [chunksN] at h
  | succ n ih =>
    simp only [chunksN, List.mem_cons] at h
    rcases h with rfl | h
    · simp
    · exact ih _ h

/-- What the engine writes to OUT is as long as the input (R31, R85). -/
theorem length_engineText (cipher : Block → Block) (s : State) :
    (engineText cipher s).length = s.inLen.toNat := by
  rw [engineText, ctr, chunks, length_ctrChunks _ _ _ fun c hc => length_le_of_mem_chunksN _ _ hc,
    length_chunksN_sum _ _ (by simp [chunkCount]; omega)]
  simp [State.inBytes]

/-- Free bytes are as many as the rule's. -/
theorem length_written (s : State) (bs : List Byte) :
    (s.written ((List.range bs.length).map (Config.rekeyByte s.draws)) bs).length = bs.length := by
  unfold State.written; split <;> simp

/-- Free or not, AUTHOK and AUTHFAIL are not both written 1 (R18). -/
theorem State.writeAuth_cases (s : State) {ok fail : Bool} (h : ¬(ok = true ∧ fail = true)) :
    ∃ ok' fail', s.writeAuth ok fail = s.setAuth ok' fail' ∧ ¬(ok' = true ∧ fail' = true) := by
  refine ⟨_, _, s.writeAuth_eq ok fail, ?_⟩
  unfold State.written
  split
  · cases Config.rekeyAuthOk s.draws <;> simp
  · exact h

/-- Every command completes, and these are all the ways it can (R26). -/
theorem exec_wrote (i : Instr) (s : State) : ∃ u e, exec i s = .next (u.finish e) ∧ Wrote s u e := by
  cases i with
  | gfmul =>
    obtain ⟨ok, fail, hw, ha⟩ := (s.writeRes (multiply s.opa s.opb)).writeAuth_cases (ok := false) (fail := false) (by simp)
    exact ⟨_, _, hw ▸ exec_gfmul s, .product _ _ _ ha⟩
  | incr => exact ⟨_, _, exec_incr s, .result _⟩
  | ghash =>
    cases h : ghashCheck s with
    | none => exact ⟨_, _, exec_ghash_ok h, .result _⟩
    | some e => exact ⟨_, _, exec_ghash_error h, .error e⟩
  | y0derive =>
    cases h : y0Check s with
    | none => exact ⟨_, _, exec_y0derive_ok h, .result _⟩
    | some e => exact ⟨_, _, exec_y0derive_error h, .error e⟩
  | encrypt =>
    cases h : precheck s with
    | some e => exact ⟨_, _, exec_encrypt_error h, .error e⟩
    | none =>
      refine ⟨_, _, exec_encrypt_ok h, ?_⟩
      obtain ⟨ok, fail, hw, ha⟩ := State.writeAuth_cases (ok := false) (fail := false)
        (((s.writeBytes s.outAddr.toNat (engineText s.cipher.apply s)).setHidden
          (engineHidden s.cipher.apply s (engineText s.cipher.apply s) (chunkCount s.inLen.toNat))).writeTag
          (gcmTag s.cipher.apply (subkey s.cipher.apply) (preCounter s.cipher.apply s) s.aadBytes
            (engineText s.cipher.apply s))) (by simp)
      exact hw ▸ .sealed _ _ _ _ _ ha ((length_written s _).trans (length_engineText _ s)) ((precheck_none_iff s).1 h)
  | decrypt =>
    cases h : precheck s with
    | some e => exact ⟨_, _, exec_decrypt_error h, .decryptError e⟩
    | none =>
      obtain ⟨ok, fail, hw, ha⟩ := s.writeAuth_cases (ok := decide (decryptTag s.cipher.apply s = s.tag))
        (fail := decide (decryptTag s.cipher.apply s ≠ s.tag)) (by simp)
      rw [exec_decrypt_ok h]
      cases fail with
      | true =>
        obtain rfl : ok = false := by simpa using ha
        rw [decryptRule_rejects hw]
        exact ⟨_, _, rfl, .rejected _⟩
      | false =>
        rw [decryptRule_opens hw]
        exact ⟨_, _, rfl, .opened _ _ _ ((length_written s _).trans (length_engineText _ s)) ((precheck_none_iff s).1 h)⟩
  | clear => exact ⟨_, _, exec_clear s, .cleared⟩
  | illegalOp0 => exact ⟨_, _, rfl, .error _⟩
  | illegalOp8F op => exact ⟨_, _, rfl, .error _⟩
  | illegalRsv op rsv => exact ⟨_, _, rfl, .error _⟩

/-- What no command writes. -/
theorem Wrote.outside {s u : State} {e : ErrCode} (h : Wrote s u e) : SameOutside s u := by
  cases h <;> simp [SameOutside]

/-- No command writes a sticky flag (R90, R101). -/
theorem Wrote.sticky {s u : State} {e : ErrCode} (h : Wrote s u e) :
    u.status.wbusy = s.status.wbusy ∧ u.status.accerr = s.status.accerr := by
  cases h <;> simp

/-- MemWrite to a valid OUT region stays inside BUF (R29, R32). -/
theorem out_within {s : State} (hp : ChecksPass s) (bs : List Byte) (hl : bs.length = s.inLen.toNat)
    (hm : Memory.within s.bufBytes s.buf = true) :
    Memory.within s.bufBytes (Memory.setBytes s.buf s.outAddr.toNat bs) = true := by
  obtain ⟨-, -, -, -, -, hv, -⟩ := hp
  rcases Bool.or_eq_true _ _ ▸ hv with h | h
  · have hz : s.inLen = 0 := of_decide_eq_true h
    have : bs = [] := List.length_eq_zero_iff.mp (by simpa [hz] using hl)
    simpa [this, Memory.setBytes] using hm
  · exact Memory.within_setBytes _ _ _ (by have := of_decide_eq_true h; omega) hm

/-- Every completion step keeps BUF canonical and within BUF_BYTES. -/
theorem Wrote.bufOk {s u : State} {e : ErrCode} (h : Wrote s u e) (hs : s.bufOk) : u.bufOk := by
  obtain ⟨hw, hi⟩ := hs
  have hb : u.bufBytes = s.bufBytes := by simp [State.bufBytes, h.outside.1]
  cases h with
  | sealed bs hd v ok fail ha hl hp => exact ⟨Memory.wf_setBytes _ _ _ hw, out_within hp bs hl hi⟩
  | opened bs hd ok hl hp => exact ⟨Memory.wf_setBytes _ _ _ hw, out_within hp bs hl hi⟩
  | cleared => exact ⟨Memory.wf_filled _ _, Memory.within_filled _ _⟩
  | error | decryptError | result | product | rejected => exact ⟨hw, hi⟩

end Sys2Proof.Machine
end

