-- ==== Sys2Proof/Laws/HostBus.lean ====
section
/-! SUPPORT. What an access of the host port can do, said once (20_memory.md R35 to R43). -/

namespace Sys2Proof.Machine

/-- The register map's rows, written out (R10, R11). -/
def regRows : List (Nat × Reg) :=
  [(0x000, .id), (0x004, .bufsz), (0x008, .cmd), (0x00C, .status), (0x010, .cbsz),
   (0x020, .ivAddr), (0x024, .ivLen), (0x028, .aadAddr), (0x02C, .aadLen),
   (0x030, .inAddr), (0x034, .inLen), (0x038, .outAddr),
   (0x040, .opa 0), (0x044, .opa 1), (0x048, .opa 2), (0x04C, .opa 3),
   (0x050, .opb 0), (0x054, .opb 1), (0x058, .opb 2), (0x05C, .opb 3),
   (0x060, .res 0), (0x064, .res 1), (0x068, .res 2), (0x06C, .res 3),
   (0x070, .tag 0), (0x074, .tag 1), (0x078, .tag 2), (0x07C, .tag 3)]

theorem regMap_eq : regMap = regRows := rfl

/-- The register map below 0x080, offset by offset (R10, R37). -/
theorem regMap_low : ∀ n : Fin 128,
    (n.val % 4 = 0 → ¬((0x014 ≤ n.val ∧ n.val ≤ 0x01F) ∨ (0x03C ≤ n.val ∧ n.val ≤ 0x03F)) →
      (regMap.lookup n.val).isSome = true) ∧
    ((0x014 ≤ n.val ∧ n.val ≤ 0x01F) ∨ (0x03C ≤ n.val ∧ n.val ≤ 0x03F) → regMap.lookup n.val = none) ∧
    (regMap.lookup n.val = some .status → n.val = 0x00C) ∧
    (∀ j, regMap.lookup n.val = some (.res j) → 0x60 ≤ n.val) ∧
    (∀ j, regMap.lookup n.val = some (.tag j) → 0x60 ≤ n.val) ∧
    (n.val % 4 = 0 → 0x60 ≤ n.val → ∃ j, regMap.lookup n.val = some (.res j) ∨ regMap.lookup n.val = some (.tag j)) := by
  rw [regMap_eq]
  decide +kernel

/-- Only 0x008 names CMD (R10). -/
theorem regMap_cmd : ∀ n : Fin 128, regMap.lookup n.val = some .cmd → n.val = 0x008 := by
  rw [regMap_eq]
  decide +kernel

theorem regMap_high (n : Nat) (h : 128 ≤ n) : regMap.lookup n = none := by
  rw [List.lookup_eq_none_iff]
  intro p hp
  have hlow : ∀ p ∈ regMap, p.1 < 128 := by decide
  have := hlow p hp
  simp
  omega

/-- The register at an offset, read off the rows. -/
theorem targetOf_reg {b n : Nat} {r : Reg} {off : Offset} (ho : off.toNat = n) (hn : n < 128) (h4 : n % 4 = 0)
    (hr : regRows.lookup n = some r) : targetOf b off = .reg r := by
  unfold targetOf targetAt
  rw [ho, if_neg (by omega), if_neg (by omega), regMap_eq, hr]

/-- An IDLE read of a register. -/
theorem hostRead_reg {n : Nat} {r : Reg} {off : Offset} {s : State} (ho : off.toNat = n) (hn : n < 128) (h4 : n % 4 = 0)
    (hr : regRows.lookup n = some r) (hs : s.seq = .idle) : hostRead off s = s.answer (s.regValue r) := by
  simp [hostRead, targetOf_reg ho hn h4 hr, State.isBusy, hs]

/-- An IDLE write of a register. -/
theorem hostWrite_reg {n : Nat} {r : Reg} {off : Offset} {w : Word} {s : State} (ho : off.toNat = n) (hn : n < 128)
    (h4 : n % 4 = 0) (hr : regRows.lookup n = some r) (hs : s.seq = .idle) : hostWrite off w s = s.writeReg w r := by
  simp [hostWrite, targetOf_reg ho hn h4 hr, State.isBusy, hs]

/-- A refused offset names nothing (R36, R37). -/
theorem target_refused {n : Nat} {off : Offset} (h : RefusedAt n off.toNat) :
    targetOf n off = .misaligned ∨ targetOf n off = .unmapped := by
  unfold targetOf targetAt
  have ho := off.isLt
  by_cases h4 : off.toNat % 4 ≠ 0
  · exact .inl (by rw [if_pos h4])
  · right
    rw [if_neg h4]
    rcases h with h | h
    · exact absurd h h4
    · split
      · rw [if_neg (by rcases h with h | h | h | h <;> omega)]
      · have hn : regMap.lookup off.toNat = none := by
          by_cases hlt : off.toNat < 128
          · refine (regMap_low ⟨off.toNat, hlt⟩).2.1 ?_
            rcases h with h | h | h | h
            · exact .inl h
            · exact .inr h
            · omega
            · omega
          · exact regMap_high _ (by omega)
        rw [hn]

/-- An aligned, mapped offset names a BUF word or a register word (R34). -/
theorem target_mapped {n : Nat} {off : Offset} (h : MappedAt n off.toNat) :
    (∃ a, targetOf n off = .bufWord a ∧ off.toNat = 0x10000 + a) ∨
      ∃ r, targetOf n off = .reg r ∧ off.toNat < 128 ∧ regMap.lookup off.toNat = some r := by
  obtain ⟨h4, hu⟩ := h
  unfold targetOf targetAt
  rw [if_neg (by omega)]
  split
  · next hh =>
    rw [if_pos (by by_contra hc; exact hu (.inr (.inr (.inr (by omega)))))]
    exact .inl ⟨_, rfl, by omega⟩
  · next hh =>
    have hlt : off.toNat < 128 := by by_contra hc; exact hu (.inr (.inr (.inl (by omega))))
    have hs := (regMap_low ⟨off.toNat, hlt⟩).1 h4 fun hc => hu <| by
      rcases hc with hc | hc
      · exact .inl hc
      · exact .inr (.inl hc)
    obtain ⟨r, hr⟩ := Option.isSome_iff_exists.1 hs
    have hr' : regMap.lookup off.toNat = some r := hr
    rw [hr']
    exact .inr ⟨r, rfl, hlt, rfl⟩

/-- What a register write can change (R10 to R22). -/
inductive RegWrote (s : State) : State → Prop
  /-- A read-only register: nothing (R37). -/
  | ignored : RegWrote s s
  /-- An issue step (R25). -/
  | issued (w : Word) : RegWrote s (s.issue w)
  /-- A write to STATUS (R19). -/
  | status (w : Word) : RegWrote s { s with status := s.status.writeOneToClear s.isBusy w }
  /-- A descriptor or an operand register, or TAG (R12, R13, R15, R22). -/
  | stored (f : State → State)
      (h : f s = { s with
        ivAddr := (f s).ivAddr, ivLen := (f s).ivLen, aadAddr := (f s).aadAddr, aadLen := (f s).aadLen
        inAddr := (f s).inAddr, inLen := (f s).inLen, outAddr := (f s).outAddr
        opa := (f s).opa, opb := (f s).opb, tag := (f s).tag }) : RegWrote s (f s)

theorem writeReg_wrote (s : State) (w : Word) (r : Reg) : RegWrote s (s.writeReg w r) := by
  cases r with
  | id => exact .ignored
  | bufsz => exact .ignored
  | cbsz => exact .ignored
  | res j => exact .ignored
  | cmd => exact .issued w
  | status => exact .status w
  | ivAddr => exact .stored (fun s => s.writeReg w .ivAddr) rfl
  | ivLen => exact .stored (fun s => s.writeReg w .ivLen) rfl
  | aadAddr => exact .stored (fun s => s.writeReg w .aadAddr) rfl
  | aadLen => exact .stored (fun s => s.writeReg w .aadLen) rfl
  | inAddr => exact .stored (fun s => s.writeReg w .inAddr) rfl
  | inLen => exact .stored (fun s => s.writeReg w .inLen) rfl
  | outAddr => exact .stored (fun s => s.writeReg w .outAddr) rfl
  | opa j => exact .stored (fun s => s.writeReg w (.opa j)) rfl
  | opb j => exact .stored (fun s => s.writeReg w (.opb j)) rfl
  | tag j => exact .stored (fun s => s.writeReg w (.tag j)) rfl

/-- A read gives a value and at most sets ACCERR or draws a free value (R36 to R38, R42). -/
theorem hostRead_cases (off : Offset) (s : State) :
    hostRead off s = s.setAccerr.answer 0 ∨ (s.isBusy = true ∧ hostRead off s = s.answerBusy) ∨
      ∃ v, hostRead off s = s.answer v := by
  unfold hostRead
  cases targetOf s.bufBytes off with
  | misaligned => exact .inl rfl
  | unmapped => exact .inl rfl
  | bufWord a =>
    cases h : s.isBusy with
    | true => exact .inr (.inl ⟨rfl, rfl⟩)
    | false => exact .inr (.inr ⟨_, rfl⟩)
  | reg r =>
    cases h : s.isBusy && r.hiddenWhileBusy with
    | true => exact .inr (.inl ⟨by simp_all, by simp [h]⟩)
    | false => exact .inr (.inr ⟨_, by simp only [h]; rfl⟩)

/-- A BUF word is inside BUF: BUF_BYTES is a multiple of 4 (R4, R35). -/
theorem bufWord_within {n a : Nat} {off : Offset} (hd : n % 4 = 0) (h : targetOf n off = .bufWord a) : a + 4 ≤ n := by
  unfold targetOf targetAt at h
  split at h
  · simp at h
  · split at h
    · split at h
      · have := Target.bufWord.inj h; omega
      · simp at h
    · split at h <;> simp at h

theorem bufBytes_mod_four (s : State) : s.bufBytes % 4 = 0 := by
  have : s.bufBytes = 4 * 2 ^ (6 + s.bufLog.val) := by
    rw [State.bufBytes, show 8 + s.bufLog.val = 2 + (6 + s.bufLog.val) by omega, Nat.pow_add]
  omega

@[simp] theorem length_wordBytes (w : Word) : (wordBytes w).length = 4 := rfl

/-- What a write can do (R19, R35 to R37, R43). -/
theorem hostWrite_cases (off : Offset) (w : Word) (s : State) :
    hostWrite off w s = s.setAccerr ∨ (s.isBusy = true ∧ hostWrite off w s = s.setWbusy) ∨
      hostWrite off w s = { s with status := s.status.writeOneToClear s.isBusy w } ∨
      (s.isBusy = false ∧ ∃ a, a + 4 ≤ s.bufBytes ∧ hostWrite off w s = s.memWrite a (wordBytes w)) ∨
      (s.isBusy = false ∧ RegWrote s (hostWrite off w s)) := by
  unfold hostWrite
  cases ht : targetOf s.bufBytes off with
  | misaligned => exact .inl rfl
  | unmapped => exact .inl rfl
  | bufWord a =>
    cases h : s.isBusy with
    | true => exact .inr (.inl ⟨rfl, rfl⟩)
    | false => exact .inr (.inr (.inr (.inl ⟨rfl, a, bufWord_within (bufBytes_mod_four s) ht, rfl⟩)))
  | reg r =>
    by_cases hr : r = .status
    · subst hr; exact .inr (.inr (.inl (by simp [State.writeReg])))
    · cases h : s.isBusy with
      | true => exact .inr (.inl ⟨rfl, by simp [hr]⟩)
      | false => exact .inr (.inr (.inr (.inr ⟨rfl, by simpa using writeReg_wrote s w r⟩)))

@[simp] theorem clearOutcome_wbusy (st : Status) : st.clearOutcome.wbusy = st.wbusy := rfl
@[simp] theorem clearOutcome_accerr (st : Status) : st.clearOutcome.accerr = st.accerr := rfl
@[simp] theorem clearOutcome_done (st : Status) : st.clearOutcome.done = false := rfl
@[simp] theorem clearOutcome_authOk (st : Status) : st.clearOutcome.authOk = false := rfl
@[simp] theorem clearOutcome_authFail (st : Status) : st.clearOutcome.authFail = false := rfl
@[simp] theorem clearOutcome_err (st : Status) : st.clearOutcome.err = .noError := rfl

/-- A STATUS write leaves the outcome alone, or clears all of it (R19). -/
theorem writeOneToClear_outcome (st : Status) (busy : Bool) (w : Word) :
    let u := st.writeOneToClear busy w
    (u.done = st.done ∧ u.authOk = st.authOk ∧ u.authFail = st.authFail ∧ u.err = st.err) ∨
      (busy = false ∧ u.done = false ∧ u.authOk = false ∧ u.authFail = false ∧ u.err = .noError) := by
  unfold Status.writeOneToClear
  split
  · next h => exact .inr ⟨by simp only [Bool.and_eq_true, Bool.not_eq_true'] at h; exact h.2, rfl, rfl, rfl, rfl⟩
  · exact .inl ⟨rfl, rfl, rfl, rfl⟩

end Sys2Proof.Machine
end

