-- ==== Sys2Proof/Laws/Multiply.lean ====
section
/-! SUPPORT. The multiplier's loop (41_gf_multiplier.md R50): its running values after n turns, and that both are linear. -/

namespace Sys2Proof.Machine

/-- Z and V after the first n turns of the loop. -/
def mulLoop (x y : Block) (n : Nat) : Block × Block := (List.range n).foldl (mulStep x) (0, y)

/-- V after n turns: Y shifted and reduced n times. -/
def shifted (y : Block) : Nat → Block
  | 0 => y
  | n + 1 => shiftReduce (shifted y n)

theorem multiply_eq_loop (x y : Block) : multiply x y = (mulLoop x y 128).1 := rfl

@[simp] theorem mulLoop_zero (x y : Block) : mulLoop x y 0 = (0, y) := rfl

theorem mulLoop_succ (x y : Block) (n : Nat) : mulLoop x y (n + 1) = mulStep x (mulLoop x y n) n := by
  simp [mulLoop, List.range_succ]

theorem mulLoop_snd (x y : Block) (n : Nat) : (mulLoop x y n).2 = shifted y n := by
  induction n with
  | zero => rfl
  | succ n ih => rw [mulLoop_succ]; simp [mulStep, ih, shifted]

/-- Turn n adds V to Z exactly if bit 127 - n of X is set. -/
theorem mulLoop_fst_succ (x y : Block) (n : Nat) :
    (mulLoop x y (n + 1)).1 = (mulLoop x y n).1 ^^^ (if x.getLsbD (127 - n) then shifted y n else 0#128) := by
  rw [mulLoop_succ]
  simp only [mulStep, mulLoop_snd]
  split <;> simp

theorem xor_xor_xor_comm (a b c d : Block) : (a ^^^ b) ^^^ (c ^^^ d) = (a ^^^ c) ^^^ (b ^^^ d) := by
  rw [BitVec.xor_assoc, BitVec.xor_assoc, ← BitVec.xor_assoc b, BitVec.xor_comm b c, BitVec.xor_assoc c]

theorem shiftReduce_eq (v : Block) : shiftReduce v = (v >>> 1) ^^^ (if v.getLsbD 0 then reduction else 0#128) := by
  unfold shiftReduce; split <;> simp

/-- The shift with its reduction is linear. -/
theorem shiftReduce_xor (a b : Block) : shiftReduce (a ^^^ b) = shiftReduce a ^^^ shiftReduce b := by
  have hr : (if (a ^^^ b).getLsbD 0 then reduction else 0#128) =
      (if a.getLsbD 0 then reduction else 0#128) ^^^ (if b.getLsbD 0 then reduction else 0#128) := by
    rw [BitVec.getLsbD_xor]
    cases a.getLsbD 0 <;> cases b.getLsbD 0 <;> simp
  rw [shiftReduce_eq, shiftReduce_eq a, shiftReduce_eq b, hr, BitVec.ushiftRight_xor_distrib, xor_xor_xor_comm]

theorem shifted_xor (a b : Block) (n : Nat) : shifted (a ^^^ b) n = shifted a n ^^^ shifted b n := by
  induction n with
  | zero => rfl
  | succ n ih => simp only [shifted, ih, shiftReduce_xor]

theorem shifted_add (y : Block) (m n : Nat) : shifted (shifted y m) n = shifted y (m + n) := by
  induction n with
  | zero => rfl
  | succ n ih => simp only [shifted, ih, Nat.add_eq]

@[simp] theorem shifted_zero (n : Nat) : shifted 0#128 n = 0#128 := by
  induction n with
  | zero => rfl
  | succ n ih => rw [shifted, ih]; decide

/-- The loop is linear in Y. -/
theorem mulLoop_xor_right (x a b : Block) (n : Nat) :
    (mulLoop x (a ^^^ b) n).1 = (mulLoop x a n).1 ^^^ (mulLoop x b n).1 := by
  induction n with
  | zero => simp
  | succ n ih =>
    have hb : (if x.getLsbD (127 - n) then shifted (a ^^^ b) n else 0#128) =
        (if x.getLsbD (127 - n) then shifted a n else 0#128) ^^^ (if x.getLsbD (127 - n) then shifted b n else 0#128) := by
      split <;> simp [shifted_xor]
    rw [mulLoop_fst_succ, mulLoop_fst_succ, mulLoop_fst_succ, ih, hb, xor_xor_xor_comm]

/-- The loop is linear in X. -/
theorem mulLoop_xor_left (a b y : Block) (n : Nat) :
    (mulLoop (a ^^^ b) y n).1 = (mulLoop a y n).1 ^^^ (mulLoop b y n).1 := by
  induction n with
  | zero => simp
  | succ n ih =>
    have hb : (if (a ^^^ b).getLsbD (127 - n) then shifted y n else 0#128) =
        (if a.getLsbD (127 - n) then shifted y n else 0#128) ^^^ (if b.getLsbD (127 - n) then shifted y n else 0#128) := by
      rw [BitVec.getLsbD_xor]
      cases a.getLsbD (127 - n) <;> cases b.getLsbD (127 - n) <;> simp
    rw [mulLoop_fst_succ, mulLoop_fst_succ, mulLoop_fst_succ, ih, hb, xor_xor_xor_comm]

end Sys2Proof.Machine
end

