-- ==== Sys2Proof/Laws/PerInstr.lean ====
section
/-! SUPPORT. Per-instruction families: each command word matches its row of spec/opcode_table.json. -/

namespace Sys2Proof

/-- The row's "mask". -/
def Instr.tableMask : Instr → Word
  | .gfmul | .incr | .ghash | .y0derive | .encrypt | .decrypt | .clear | .illegalOp0 => 0xFFFFFFFF
  | .illegalOp8F _ => 0xFFFFFFF8
  | .illegalRsv _ _ => 0x00000000

/-- The row's "match". -/
def Instr.tableMatch : Instr → Word
  | .gfmul => 0x00000001
  | .incr => 0x00000002
  | .ghash => 0x00000003
  | .y0derive => 0x00000004
  | .encrypt => 0x00000005
  | .decrypt => 0x00000006
  | .clear => 0x00000007
  | .illegalOp0 => 0x00000000
  | .illegalOp8F _ => 0x00000008
  | .illegalRsv _ _ => 0x00000000

namespace Laws.TableRow

/-- A well-formed instruction's word matches its row of the opcode table. -/
def Statement (i : Instr) : Prop := i.wf = true → encode i &&& i.tableMask = i.tableMatch

theorem gfmul : Statement .gfmul := fun _ => rfl
theorem incr : Statement .incr := fun _ => rfl
theorem ghash : Statement .ghash := fun _ => rfl
theorem y0derive : Statement .y0derive := fun _ => rfl
theorem encrypt : Statement .encrypt := fun _ => rfl
theorem decrypt : Statement .decrypt := fun _ => rfl
theorem clear : Statement .clear := fun _ => rfl
theorem illegalOp0 : Statement .illegalOp0 := fun _ => rfl
theorem illegalOp8F (op : BitVec 4) : Statement (.illegalOp8F op) := by revert op; unfold Statement; decide
theorem illegalRsv (op : BitVec 4) (rsv : BitVec 28) : Statement (.illegalRsv op rsv) := fun _ => BitVec.and_zero

end Laws.TableRow

end Sys2Proof
end

