-- ==== Sys2Proof/Laws/Step.lean ====
section
/-! SUPPORT. What a step can do, said once. -/

namespace Sys2Proof.Machine

/-- What the engine's move can do (R26, R104, R112). -/
theorem engineMove_cases (s : State) :
    engineMove s = .next s ∨
      (s.seq = .busy ∧ ∃ b, engineMove s = .next (s.request b)) ∨
      (s.seq = .busy ∧ engineMove s = exec (decode s.cmdl) s) := by
  unfold engineMove
  cases hs : s.seq with
  | idle => exact .inl rfl
  | busy =>
    cases hc : s.cReq with
    | some b => exact .inl rfl
    | none =>
      cases hn : s.nextCall? with
      | some b => exact .inr (.inl ⟨rfl, b, rfl⟩)
      | none => exact .inr (.inr ⟨rfl, rfl⟩)

theorem engineMove_idle {s : State} (hs : s.seq = .idle) : engineMove s = .next s := by simp [engineMove, hs]

theorem engineMove_holds {s : State} {b : Block} (hs : s.seq = .busy) (hc : s.cReq = some b) : engineMove s = .next s := by
  simp [engineMove, hs, hc]

theorem engineMove_asks {s : State} {b : Block} (hs : s.seq = .busy) (hc : s.cReq = none) (hn : s.nextCall? = some b) :
    engineMove s = .next (s.request b) := by simp [engineMove, hs, hc, hn]

theorem engineMove_completes {s : State} (hs : s.seq = .busy) (hc : s.cReq = none) (hn : s.nextCall? = none) :
    engineMove s = exec (decode s.cmdl) s := by simp [engineMove, hs, hc, hn]

/-- The calls of a command do not depend on how far the port has come, nor on the events and `h_rdata`. -/
theorem cipherCalls_congr (i : Instr) (s : State) (evs : List Event) (r : Option Word) (c : Option Block) (n : Nat) :
    cipherCalls i { s with events := evs, hRdata := r, cReq := c, served := n } = cipherCalls i s := by
  cases i <;> rfl

theorem step_nil {s : State} (h : s.events = []) : step s = engineMove (s.beginCycle []) := by simp [step, h]

theorem step_cons {s : State} {e : Event} {rest : List Event} (h : s.events = e :: rest) :
    step s = runEvent e (s.beginCycle rest) := by simp [step, h]

/-- Every move of the engine answers a next state. -/
theorem engineMove_next (s : State) : ∃ t, engineMove s = .next t := by
  rcases engineMove_cases s with h | ⟨-, b, h⟩ | ⟨-, h⟩
  · exact ⟨_, h⟩
  · exact ⟨_, h⟩
  · obtain ⟨u, e, hu, -⟩ := exec_wrote (decode s.cmdl) s
    exact ⟨_, h.trans hu⟩

/-- A property that the engine and every event keep is kept by a step. -/
theorem step_keeps {P : State → Prop} (begin : ∀ s evs, P s → P (s.beginCycle evs))
    (engine : ∀ s t, P s → engineMove s = .next t → P t)
    (event : ∀ e s t, e ≠ .engine → P s → runEvent e s = .next t → P t)
    {s t : State} (hs : P s) (h : step s = .next t) : P t := by
  cases he : s.events with
  | nil => exact engine _ _ (begin s [] hs) (step_nil he ▸ h)
  | cons e rest =>
    rw [step_cons he] at h
    by_cases hc : e = .engine
    · subst hc; exact engine _ _ (begin s rest hs) h
    · exact event e _ _ hc (begin s rest hs) h

end Sys2Proof.Machine
end

