-- ==== Sys2Proof/Tests/Slice0.lean ====
section
/-! SUPPORT. Tests on the vectors of spec/95_test_vectors.md and on words and values computed by hand from the rules, and
the witnesses of the statements' hypotheses. -/

namespace Sys2Proof.Tests

open Sys2Proof.Machine

-- One kernel check at a time: side by side, their threads' stacks alone would fill the memory limit.
set_option Elab.async false

/-! ## Helpers -/

/-- `n` bytes of a number, the first the most significant. -/
def be (n v : Nat) : List Byte := (List.range n).map fun k => BitVec.ofNat 8 (v / 256 ^ (n - 1 - k))

/-- The outcome is a next state with the property. -/
def goesTo (o : Host.Outcome State Fault Refusal) (p : State → Bool) : Bool :=
  match nextOf o with
  | some t => p t
  | none => false

/-- Reset, then BUSY with the command word `w`, `c_bsz` = 16 latched. -/
def busyWith (w : Word) : State := { State.reset with cmdl := w, cbszl := 16, seq := .busy }

/-- H0 of the vectors. -/
def h0 : Block := 0x66e94bd4ef8a2c3b884cfa59ca342b2e

/-- HK of the vectors. -/
def hk : Block := 0xb83b533708bf535d0aa6e52980d53b78

/-- The oracle table of V-ENC-2. -/
def oracle : CipherUnit :=
  ⟨0, [(0, h0), (2, 0x0388dace60b6a392f328c2b971b2fe78), (1, 0x58e2fccefa7e3061367f1d57a4e7455a)]⟩

/-- The tag of V-ENC-2. -/
def tagT : Block := 0xab6e47d42cec13bdf53a67b21257bddf

/-- The setting of V-ENC-2 in the layout of program P2, with the word `w` in its BUSY window: 12 IV bytes at 0x00, 16
input bytes `v` at 0x10, OUT at 0x20 filled with the marker of program P3. -/
def engineState (w : Word) (v : Nat) (tag : Block) : State :=
  (((busyWith w).memWrite 0x00 (be 12 0)).memWrite 0x10 (be 16 v)).memWrite 0x20 (be 16 0xdeadbeefdeadbeefdeadbeefdeadbeef)
    |> fun s => { s with ivLen := 12, inAddr := 0x10, inLen := 16, outAddr := 0x20, tag := tag, cipher := oracle }

/-- V-ENC-2 in its BUSY window. -/
def encState : State := engineState 5 0 0

/-- V-DEC-1 and V-DEC-2 in their BUSY window. -/
def decState (tag : Block) : State := engineState 6 0x0388dace60b6a392f328c2b971b2fe78 tag

/-- V-ENC-12 in its BUSY window: the complement cipher on the four blocks it asks for. -/
def notState : State :=
  (((busyWith 5).memWrite 0x00 (be 12 0)).memWrite 0x10 (be 17 0x000102030405060708090a0b0c0d0e0f10)).memWrite 0x30 (be 1 1)
    |> fun s =>
      { s with
        ivLen := 12, aadAddr := 0x30, aadLen := 1, inAddr := 0x10, inLen := 17, outAddr := 0x40
        cipher := ⟨0, [(0, ~~~0), (1, ~~~1), (2, ~~~2), (3, ~~~3)]⟩ }

/-! ## WellFormed -/

theorem test_wf_refuses_op8F_below_8 : (Instr.illegalOp8F 3).wf = false := by decide
theorem test_wf_refuses_op8F_7 : (Instr.illegalOp8F 7).wf = false := by decide
theorem test_wf_accepts_op8F_8 : (Instr.illegalOp8F 8).wf = true := by decide
theorem test_wf_refuses_rsv_zero : (Instr.illegalRsv 5 0).wf = false := by decide
theorem test_wf_accepts_rsv_one : (Instr.illegalRsv 5 1).wf = true := by decide

/-! ## Decode: words written out bit by bit from R46 and R47 -/

theorem test_decode_gfmul : decode 0b0000000000000000000000000000_0001 = .gfmul := by decide
theorem test_decode_incr : decode 0b0000000000000000000000000000_0010 = .incr := by decide
theorem test_decode_ghash : decode 0b0000000000000000000000000000_0011 = .ghash := by decide
theorem test_decode_y0derive : decode 0b0000000000000000000000000000_0100 = .y0derive := by decide
theorem test_decode_encrypt : decode 0b0000000000000000000000000000_0101 = .encrypt := by decide
theorem test_decode_decrypt : decode 0b0000000000000000000000000000_0110 = .decrypt := by decide
theorem test_decode_clear : decode 0b0000000000000000000000000000_0111 = .clear := by decide
theorem test_decode_op0 : decode 0b0000000000000000000000000000_0000 = .illegalOp0 := by decide
theorem test_decode_opF : decode 0b0000000000000000000000000000_1111 = .illegalOp8F 0b1111 := by decide
/-- V-ERR-14. -/
theorem test_decode_rsv_low_bit : decode 0b0000000000000000000000000001_0101 = .illegalRsv 0b0101 1 := by decide
/-- V-ERR-15. -/
theorem test_decode_rsv_high_bit : decode 0b1000000000000000000000000000_0001 = .illegalRsv 1 0x8000000 := by decide
theorem test_decodeBytes_first_is_high : decodeBytes [0x00, 0x00, 0x00, 0x05] = .ok .encrypt := by rfl
theorem test_decodeBytes_refuses_three : decodeBytes [0x00, 0x00, 0x05] = .error (.notOneWord 3) := by rfl
theorem test_decodeTableWord : decodeTableWord 32 0x00000006 = some .decrypt := by decide
theorem test_decodeTableWord_too_long : decodeTableWord 64 0x100000006 = none := by decide

/-! ## The commands -/

/-- V-MUL-5. -/
theorem test_gfmul_one_reduction :
    goesTo (exec .gfmul { busyWith 1 with opa := 0x40000000000000000000000000000000, opb := 1 })
      (fun t => t.res = 0xe1000000000000000000000000000000 ∧ t.statusWord = 0x2) = true := by decide +kernel

/-- V-MUL-7. -/
theorem test_gfmul_many_reductions :
    goesTo (exec .gfmul { busyWith 1 with opa := 1, opb := 1 })
      (fun t => t.res = 0xe6080000000000000000000000000003) = true := by decide +kernel

/-- V-INC-4. -/
theorem test_incr_carries_across_bytes :
    goesTo (exec .incr { busyWith 2 with opa := 0xffff }) (fun t => t.res = 0x10000 ∧ t.statusWord = 0x2) = true := by
  decide +kernel

/-- V-INC-5. -/
theorem test_incr_wraps_in_32_bits :
    goesTo (exec .incr { busyWith 2 with opa := 0xffffffffffffffffffffffffffffffff })
      (fun t => t.res = 0xffffffffffffffffffffffff00000000) = true := by decide +kernel

/-- V-GH-3. -/
theorem test_ghash_of_text :
    goesTo (exec .ghash
      { (busyWith 3).memWrite 0x20 (be 16 0x0388dace60b6a392f328c2b971b2fe78) with opa := h0, inAddr := 0x20, inLen := 16 })
      (fun t => t.res = 0xf38cbb1ad69223dcc3457ae5b6b0f885 ∧ t.statusWord = 0x2) = true := by decide +kernel

/-- V-GH-4: AAD, and an empty C. -/
theorem test_ghash_of_aad_alone : ghash h0 [0x01] [] = 0x176cd25ed41ca159a37eb674b02e7a98 := by decide +kernel

/-- The second GHASH error vector: the region's sum does not wrap. -/
theorem test_ghash_region_does_not_wrap :
    goesTo (exec .ghash { busyWith 3 with opa := h0, res := 5, inAddr := 0xfffffff0, inLen := 0x20 })
      (fun t => t.res = 5 ∧ t.statusWord = 0x42) = true := by decide +kernel

/-- V-Y0-1. -/
theorem test_y0derive_direct :
    goesTo (exec .y0derive
      { (busyWith 4).memWrite 0x03 (be 12 0xcafebabefacedbaddecaf888) with opa := hk, ivAddr := 0x03, ivLen := 12 })
      (fun t => t.res = 0xcafebabefacedbaddecaf88800000001 ∧ t.statusWord = 0x2) = true := by decide +kernel

/-- V-Y0-3. -/
theorem test_y0derive_hashed :
    goesTo (exec .y0derive
      { (busyWith 4).memWrite 0x40 (be 8 0xcafebabefacedbad) with opa := hk, ivAddr := 0x40, ivLen := 8 })
      (fun t => t.res = 0xc43a83c4c4badec4354ca984db252f7d) = true := by decide +kernel

/-- V-ENC-2. -/
theorem test_encrypt_one_block :
    goesTo (exec .encrypt encState)
      (fun t => t.memRead 0x20 16 = be 16 0x0388dace60b6a392f328c2b971b2fe78 ∧ t.tag = tagT ∧ t.statusWord = 0x2) = true := by
  decide +kernel

/-- V-ENC-12: AAD, and a last chunk of one byte. -/
theorem test_encrypt_partial_chunk :
    goesTo (exec .encrypt notState)
      (fun t => t.memRead 0x40 17 = be 17 0xfffefdfcfbfaf9f8f7f6f5f4f3f2f1f2ef ∧
        t.tag = 0x5197499ef19d259b99744050e2423604) = true := by decide +kernel

/-- V-DEC-1. -/
theorem test_decrypt_matching_tag :
    goesTo (exec .decrypt (decState tagT))
      (fun t => t.memRead 0x20 16 = be 16 0 ∧ t.tag = tagT ∧ t.statusWord = 0x6) = true := by decide +kernel

/-- V-DEC-2: the tag's last bit is flipped. -/
theorem test_decrypt_wrong_tag :
    goesTo (exec .decrypt (decState 0xab6e47d42cec13bdf53a67b21257bdde))
      (fun t => t.memRead 0x20 16 = be 16 0xdeadbeefdeadbeefdeadbeefdeadbeef ∧ t.statusWord = 0xa) = true := by
  decide +kernel

/-- Program P9. -/
theorem test_clear :
    goesTo (exec .clear { (busyWith 7).memWrite 0x00 (be 4 0x01020304) with opa := 5, inLen := 16 })
      (fun t => t.memRead 0x00 4 = be 4 0 ∧ t.readByte 0xff = 0 ∧ t.opa = 0 ∧ t.inLen = 0 ∧ t.statusWord = 0x2) = true := by
  decide +kernel

/-- V-ERR-12. -/
theorem test_illegal_op0 : goesTo (exec .illegalOp0 (busyWith 0)) (fun t => t.statusWord = 0x12) = true := by decide +kernel

/-- V-ERR-13. -/
theorem test_illegal_op8 : goesTo (exec (.illegalOp8F 8) (busyWith 8)) (fun t => t.statusWord = 0x12) = true := by
  decide +kernel

/-- V-ERR-15: decoding precedes every check. -/
theorem test_illegal_rsv :
    goesTo (step { busyWith 0x80000001 with cbszl := 32 }) (fun t => t.statusWord = 0x12) = true := by decide +kernel

/-! ## The host port (95_test_vectors.md, section 8) -/

/-- V-BUS-6. -/
theorem test_bus_write_to_id : hostAccess (.write 0x000 0x12345678) State.reset = State.reset := by decide +kernel

/-- V-BUS-8. -/
theorem test_bus_unmapped_read :
    (fun t : State => t.hRdata = some 0 ∧ t.statusWord = 0x200) (hostAccess (.read 0x014) State.reset) := by decide +kernel

/-- V-BUS-9. -/
theorem test_bus_misaligned_write :
    (fun t : State => t.opa = 0 ∧ t.statusWord = 0x200) (hostAccess (.write 0x041 5) State.reset) := by decide +kernel

/-- V-BUS-10. -/
theorem test_bus_past_buf :
    (fun t : State => t.hRdata = some 0 ∧ t.statusWord = 0x200) (hostAccess (.read 0x10100) State.reset) := by decide +kernel

/-- V-BUS-12. -/
theorem test_bus_register_words :
    (hostAccess (.write 0x04C 0x0D0E0F10) (hostAccess (.write 0x040 0x01020304) State.reset)).opa =
      0x0102030400000000000000000D0E0F10 := by decide +kernel

/-- V-BUS-13. -/
theorem test_bus_buf_is_big_endian :
    (hostAccess (.write 0x10000 0xCAFEBABE) State.reset).memRead 0 4 = [0xCA, 0xFE, 0xBA, 0xBE] := by decide +kernel

/-- V-BUS-14. -/
theorem test_bus_w1c_done_clears_err :
    (hostAccess (.write 0x00C 0x2)
      { State.reset with status := ⟨true, false, false, .illegalCommand, false, false⟩ }).statusWord = 0 := by
  decide +kernel

/-- V-BUS-15. -/
theorem test_bus_w1c_while_busy : hostAccess (.write 0x00C 0x2) (busyWith 1) = busyWith 1 := by decide +kernel

/-- V-BUS-16. -/
theorem test_bus_descriptor_write_while_busy :
    (fun t : State => t.ivAddr = 0 ∧ t.statusWord = 0x101) (hostAccess (.write 0x020 1) (busyWith 1)) := by decide +kernel

/-- V-BUS-17. -/
theorem test_bus_cmd_write_while_busy :
    (fun t : State => t.cmdl = 5 ∧ t.statusWord = 0x101) (hostAccess (.write 0x008 1) (busyWith 5)) := by decide +kernel

/-- Program P7: CBSZL is latched at issue. -/
theorem test_bus_issue_latches_block_size :
    (fun t : State => t.cmdl = 5 ∧ t.cbszl = 32 ∧ t.statusWord = 0x1)
      (hostAccess (.write 0x008 5) { State.reset with cBsz := 32 }) := by decide +kernel

/-- R122, R123: `WRBUF` gives one big-endian word for every four bytes. -/
theorem test_wrbuf : wrbuf 0x10 [1, 2, 3, 4] = [.host (.write 0x10010 0x01020304)] := by decide +kernel

/-- V-DEC-2 on the cipher port: a wrong tag asks for no keystream (the column of calls). -/
theorem test_port_wrong_tag : cipherCalls .decrypt (decState 0xab6e47d42cec13bdf53a67b21257bdde) = [0, 1] := by
  decide +kernel

/-- V-ENC-2 on the cipher port. -/
theorem test_port_encrypt : cipherCalls .encrypt encState = [0, 2, 1] := by decide +kernel

/-- The first step after withFetchWord runs the word (log 3). -/
theorem test_withFetchWord : goesTo (step (State.reset.withFetchWord 32 0x8)) (fun t => t.statusWord = 0x12) = true := by
  decide +kernel

/-! ## Witnesses: states and operands that meet the hypotheses of the statements, named after the statement -/

theorem witness_DecodeFollowsOpcodeMap :
    16 ≤ (16 : Word).toNat ∧ 16 ≤ (0xffffffff : Word).toNat ∧
    (8 ≤ (8 : Word).toNat ∧ (8 : Word).toNat < 16) ∧ (8 ≤ (15 : Word).toNat ∧ (15 : Word).toNat < 16) := by decide

theorem witness_DecodeEncodeRoundTrip :
    Instr.encrypt.wf = true ∧ (Instr.illegalOp8F 15).wf = true ∧ (Instr.illegalRsv 0 0xfffffff).wf = true := by decide

theorem witness_OtherWordsAreReserved : (0 : Word).toNat < 1 ∧ 7 < (8 : Word).toNat := by decide

theorem witness_ReservedCommandsRaise :
    (∃ op, Instr.illegalOp8F 8 = .illegalOp8F op) ∧ (∃ op rsv, Instr.illegalRsv 5 1 = .illegalRsv op rsv) ∧
    (∃ w : Word, (w = 0 ∨ 8 ≤ w.toNat) ∧ Instr.illegalOp8F 8 = decode w) ∧
    (busyWith 8).status.authOk = false ∧ (busyWith 8).status.authFail = false :=
  ⟨⟨8, rfl⟩, ⟨5, 1, rfl⟩, ⟨8, by decide⟩, rfl, rfl⟩

/-- Every state the other witnesses build from is one without a rekey. -/
theorem witness_no_rekey : State.reset.rekeyed = false ∧ (busyWith 1).rekeyed = false := by decide

theorem witness_GfmulResult :
    State.reset.rekeyed = false ∧
    State.reset.opa = 0 ∧ State.reset.opb = 0 ∧ { State.reset with opa := oneBlock }.opa = oneBlock ∧
    { State.reset with opb := oneBlock }.opb = oneBlock := by decide

theorem witness_CounterBlocksDistinct : 0 ≤ 4096 ∧ 4096 ≤ 4096 ∧ 0 ≠ 4096 := by decide

/-- GHASH with a region that ends at the end of BUF. -/
def ghashState : State := { busyWith 3 with opa := h0, aadAddr := 0xf0, aadLen := 16 }

theorem witness_GhashResult_runs :
    regionValid ghashState.bufBytes ghashState.aadAddr ghashState.aadLen = true ∧
    regionValid ghashState.bufBytes ghashState.inAddr ghashState.inLen = true ∧ ghashState.rekeyed = false ∧
    (busyWith 3).opa = 0 ∧ (busyWith 3).aadLen = 0 ∧ (busyWith 3).inLen = 0 := by decide

/-- The first GHASH error vector: one byte over the end. -/
theorem witness_GhashResult_raises :
    regionValid { ghashState with aadAddr := 0xf8, aadLen := 9 }.bufBytes 0xf8 9 = false ∧
    regionValid { ghashState with inAddr := 0xfffffff0, inLen := 0x20 }.bufBytes 0xfffffff0 0x20 = false := by decide

theorem witness_GhashRecurrence :
    (be 16 7).length % 16 = 0 ∧ 1 ≤ (be 1 7).length ∧ (be 1 7).length ≤ 16 ∧ 1 ≤ (be 16 7).length ∧ (be 16 7).length ≤ 16 := by
  decide

theorem witness_LengthBlockHalves : (be 20 7).length < 2 ^ 32 ∧ (be 0 7).length < 2 ^ 32 := by decide

theorem witness_IvPaths : (be 12 7).length = 12 ∧ (be 11 7).length ≠ 12 ∧ (be 13 7).length ≠ 12 := by decide

/-- Y0DERIVE with an IV of `n` bytes from offset `a`. -/
def ivState (a n : Word) : State := { busyWith 4 with ivAddr := a, ivLen := n }

theorem witness_Y0deriveResult :
    ((ivState 0xf4 12).rekeyed = false ∧ (ivState 0xf4 12).ivLen ≠ 0 ∧ regionValid (ivState 0xf4 12).bufBytes 0xf4 12 = true ∧ (ivState 0xf4 12).ivLen = 12) ∧
    ((ivState 0 256).ivLen ≠ 0 ∧ regionValid (ivState 0 256).bufBytes 0 256 = true ∧ (ivState 0 256).ivLen ≠ 12 ∧
      (ivState 0 256).opa = 0) ∧
    (ivState 0xffffffff 0).ivLen = 0 ∧
    ((ivState 0xf5 12).ivLen ≠ 0 ∧ regionValid (ivState 0xf5 12).bufBytes 0xf5 12 = false) := by decide

theorem witness_CtrByteByByte : 16 < (be 17 7).length := by decide

/-- ENCRYPT with no text and no AAD (V-ENC-1). -/
def emptyState : State := { encState with inLen := 0 }

theorem witness_EncryptResult_runs :
    ChecksPass encState ∧ encState.rekeyed = false ∧
    (ChecksPass emptyState ∧ emptyState.rekeyed = false ∧ emptyState.inLen = 0 ∧ emptyState.aadLen = 0) ∧
    (0x1f < encState.outAddr.toNat ∧ encState.outAddr.toNat + encState.inLen.toNat ≤ 0x30) := by decide +kernel

/-- Each error of R86, on V-ENC-2's setting with one change or two: V-ERR-1, V-ERR-3, V-ERR-2, V-ERR-5, V-ERR-6,
V-ERR-9. -/
theorem witness_EncryptResult_raises :
    precheck { encState with cbszl := 32 } = some .invalidBlockSize ∧
    precheck { encState with cbszl := 32, ivLen := 0 } = some .invalidBlockSize ∧
    precheck { encState with ivLen := 0 } = some .invalidIvLength ∧
    precheck { encState with outAddr := 0xf8 } = some .region ∧
    precheck { encState with outAddr := 0x18 } = some .overlap ∧
    precheck { encState with outAddr := 0x10 } = some .overlap := by decide +kernel

theorem witness_DecryptResult :
    (ChecksPass (decState tagT) ∧ (decState tagT).rekeyed = false) ∧
    decryptTag (decState tagT).cipher.apply (decState tagT) = (decState tagT).tag ∧
    decryptTag (decState 0).cipher.apply (decState 0) ≠ (decState 0).tag ∧
    precheck { decState tagT with ivLen := 0 } = some .invalidIvLength := by decide +kernel

/-- Is some region of an engine command invalid, and does OUT overlap one? -/
def regionsAndClash (s : State) : Bool × Bool :=
  (regionValid s.bufBytes s.ivAddr s.ivLen && regionValid s.bufBytes s.aadAddr s.aadLen &&
    regionValid s.bufBytes s.inAddr s.inLen && regionValid s.bufBytes s.outAddr s.inLen,
   regionOverlap s.outAddr s.inLen s.ivAddr s.ivLen || regionOverlap s.outAddr s.inLen s.aadAddr s.aadLen ||
    regionOverlap s.outAddr s.inLen s.inAddr s.inLen)

/-- The last clause at the boundary: OUT starts where IN ends. -/
theorem witness_EngineCheckOrder :
    { encState with cbszl := 15 }.cbszl ≠ 16 ∧
    (encState.cbszl = 16 ∧ { encState with ivLen := 0 }.ivLen = 0) ∧
    (encState.ivLen ≠ 0 ∧ (regionsAndClash { encState with outAddr := 0xf1 }).1 = false) ∧
    regionsAndClash { encState with outAddr := 0x1f } = (true, true) ∧
    regionsAndClash { encState with outAddr := 0x20 } = (true, false) := by decide +kernel

/-- V-ENC-2, then V-DEC-1 on its outputs. -/
theorem witness_EncryptThenDecrypt :
    ∃ t, encState.rekeyed = false ∧ exec .encrypt encState = .next t ∧ t.status.err = .noError ∧
      ChecksPass (decState tagT) ∧ (decState tagT).rekeyed = false ∧
      (∀ b, (decState tagT).cipher.apply b = encState.cipher.apply b) ∧
      (decState tagT).memRead (decState tagT).ivAddr.toNat (decState tagT).ivLen.toNat =
        encState.memRead encState.ivAddr.toNat encState.ivLen.toNat ∧
      (decState tagT).memRead (decState tagT).aadAddr.toNat (decState tagT).aadLen.toNat =
        encState.memRead encState.aadAddr.toNat encState.aadLen.toNat ∧
      (decState tagT).memRead (decState tagT).inAddr.toNat (decState tagT).inLen.toNat =
        t.memRead encState.outAddr.toNat encState.inLen.toNat ∧
      (decState tagT).tag = t.tag :=
  ⟨encryptRule encState.cipher.apply encState, by decide, exec_encrypt_ok (by decide +kernel),
    by decide +kernel, by decide +kernel, by decide, fun _ => rfl, by decide +kernel, by decide +kernel, by decide +kernel,
    by decide +kernel⟩

theorem witness_ClearResult : (busyWith 7).rekeyed = false ∧ 0xff < (busyWith 7).bufBytes ∧ (busyWith 7).status.authOk = false ∧ (busyWith 7).status.authFail = false := by decide

theorem witness_RegisterWriters : exec .incr (busyWith 2) = .next (((busyWith 2).setRes (incr 0)).finish .noError) := rfl

theorem witness_ErrorsArePrecise :
    exec .illegalOp0 (busyWith 0) = .next ((busyWith 0).finish .illegalCommand) ∧
    ((busyWith 0).finish .illegalCommand).status.err ≠ .noError := ⟨rfl, by decide⟩

theorem witness_RekeyedWindowIsFree :
    ChecksPass { encState with rekeyed := true } ∧ { encState with rekeyed := true }.rekeyed = true := by decide +kernel

theorem witness_RekeyedUnitCommandsAreFree :
    { ghashState with rekeyed := true }.rekeyed = true ∧
    regionValid { ghashState with rekeyed := true }.bufBytes ghashState.aadAddr ghashState.aadLen = true ∧
    regionValid { ghashState with rekeyed := true }.bufBytes ghashState.inAddr ghashState.inLen = true ∧
    { ivState 0xf4 12 with rekeyed := true }.rekeyed = true ∧ { ivState 0xf4 12 with rekeyed := true }.ivLen ≠ 0 ∧
    regionValid { ivState 0xf4 12 with rekeyed := true }.bufBytes 0xf4 12 = true := by decide

/-- The setting of V-ENC-2 with all three requests answered, with and without an event left. -/
theorem witness_StepRunsDecodedCommand :
    encState.events = [] ∧ { encState with events := [.engine] }.events = [.engine] ∧
    encState.seq = .busy ∧ encState.cReq = none ∧ { encState with served := 3 }.served = 3 ∧
    (cipherCalls (decode encState.cmdl) { encState with served := 3 }).length ≤ 3 := by decide +kernel

theorem witness_StepTakesFirstEvent :
    { State.reset with events := [.host (.read 0)] }.events = [.host (.read 0)] ∧
    { State.reset with events := [.reset none] }.events = [.reset none] ∧
    ({ State.reset with events := [.blockSize 32] }.events = [.blockSize 32] ∧ State.reset.seq = .idle) ∧
    ({ busyWith 1 with events := [.blockSize 32] }.events = [.blockSize 32] ∧ (busyWith 1).seq = .busy) ∧
    { State.reset with events := [.setKey oracle] }.events = [.setKey oracle] := ⟨rfl, rfl, ⟨rfl, rfl⟩, ⟨rfl, rfl⟩, rfl⟩

theorem witness_IdleEngineWaits :
    State.reset.seq = .idle ∧ State.reset.events = [] ∧ { State.reset with events := [.engine] }.events = [.engine] ∧
    (∀ w, State.reset.events.head? ≠ some (.host (.write 0x008 w))) ∧ step State.reset = .next State.reset :=
  ⟨rfl, rfl, rfl, by simp [State.reset], rfl⟩

/-- Two regions that touch and do not overlap, and two that share one offset. -/
theorem witness_RegionsCoverBytes :
    (¬∃ x, (0x10 ≤ x ∧ x < 0x20) ∧ (0x20 ≤ x ∧ x < 0x30)) ∧ ∃ x, (0x10 ≤ x ∧ x < 0x21) ∧ (0x20 ≤ x ∧ x < 0x30) :=
  ⟨by omega, 0x20, by decide⟩

theorem witness_CmdWriteIssues : State.reset.seq = .idle := rfl

theorem witness_StatusWriteOneToClear :
    (0x302 : Word).getLsbD 1 = true ∧ State.reset.seq = .idle ∧ (0x300 : Word).getLsbD 1 = false ∧
    (busyWith 1).seq = .busy := by decide

/-- The first and last mapped offsets of each part of the window, for BUF_BYTES = 256. -/
theorem witness_mapped_boundaries :
    ∀ off ∈ [0x000, 0x010, 0x020, 0x038, 0x040, 0x07C, 0x10000, 0x100FC], MappedAt (busyWith 1).bufBytes off := by decide

/-- The first and last refused offsets of each part of the window, for BUF_BYTES = 256. -/
theorem witness_refused_boundaries :
    ∀ off ∈ [0x001, 0x014, 0x01C, 0x03C, 0x041, 0x080, 0xFFFC, 0x10003, 0x10100, 0x1FFFC],
      RefusedAt (busyWith 1).bufBytes off := by decide

theorem witness_BusyWritesDropped :
    (busyWith 1).seq = .busy ∧ (MappedAt (busyWith 1).bufBytes (0x100FC : Offset).toNat ∧ (0x100FC : Offset) ≠ 0x00C) ∧
    RefusedAt (busyWith 1).bufBytes (0x10100 : Offset).toNat := by decide

theorem witness_BusyReads :
    (busyWith 1).seq = .busy ∧ (0x7C : Offset).toNat % 4 = 0 ∧ (0x60 ≤ (0x7C : Offset).toNat ∧ (0x7C : Offset).toNat < 0x80) ∧
    (0x10000 ≤ (0x100FC : Offset).toNat ∧ (0x100FC : Offset).toNat < 0x10000 + (busyWith 1).bufBytes) ∧
    ((0x5C : Offset).toNat < 0x60 ∧ ¬UnmappedAt (busyWith 1).bufBytes (0x5C : Offset).toNat ∧ (0x5C : Offset) ≠ 0x00C) := by
  decide

theorem witness_RefusedAccesses :
    RefusedAt State.reset.bufBytes (0x014 : Offset).toNat ∧ RefusedAt State.reset.bufBytes (0x041 : Offset).toNat ∧
    State.reset.seq = .idle ∧ (0x06C : Offset) ∈ readOnlyOffsets := by decide

theorem witness_RegisterMapReads : State.reset.seq = .idle := rfl

theorem witness_ConstantRegisters : step State.reset = .next State.reset := rfl

theorem witness_RegisterWriteReadBack :
    State.reset.seq = .idle ∧ (0x020 : Offset) ∈ readWriteOffsets ∧ (0x07C : Offset) ∈ readWriteOffsets ∧
    (0x078 : Offset) ∈ readWriteOffsets ++ readOnlyOffsets ∧ (0x078 : Offset) ≠ 0x07C := by decide

theorem witness_BufWordsAreBigEndian :
    State.reset.seq = .idle ∧ 252 % 4 = 0 ∧ 252 + 4 ≤ State.reset.bufBytes ∧
    (0xf0 % 16 = 0 ∧ 0xf0 + 16 ≤ State.reset.bufBytes ∧ 252 = 0xf0 + 4 * (3 : Fin 4).val) := by decide

theorem witness_ReadsHaveNoEffect : MappedAt State.reset.bufBytes (0x100FC : Offset).toNat ∧ State.reset.seq = .idle := by
  decide

theorem witness_ResetValues :
    { busyWith 5 with events := [.reset (some (.read 0x00C)), .engine] }.events =
      .reset (some (.read 0x00C)) :: [.engine] := rfl

/-- The engine takes the completion step of CLEAR: BUF is listed whole afterwards. -/
theorem witness_StepKeepsInvariant :
    State.Inv (busyWith 7) ∧ ∃ t, step (busyWith 7) = .next t :=
  ⟨by decide +kernel, _, rfl⟩

theorem witness_HiddenRegistersHaveNoAddress : ∃ t, step (busyWith 1) = .next t := ⟨_, rfl⟩

/-- V-ENC-2 with its first request outstanding. -/
def askingState : State := { encState with cReq := some 0 }

/-- A request held, and a report of another block size; 0x05C is the last offset below RES. -/
theorem witness_WindowFreezesInputs :
    (askingState.seq = .busy ∧ ∃ t, step askingState = .next t ∧ t.seq = .busy) ∧
    (∃ t, step { busyWith 1 with events := [.blockSize 32] } = .next t ∧ t.seq = .busy) ∧
    (0x05C : Offset).toNat < 0x60 ∧ (0x05C : Offset) ≠ 0x00C :=
  ⟨⟨rfl, _, rfl, rfl⟩, ⟨_, rfl, rfl⟩, by decide, by decide⟩

theorem witness_CipherCallOrder :
    (encState.events = [] ∧ encState.seq = .busy ∧ encState.cReq = none ∧
      (cipherCalls (decode encState.cmdl) encState)[encState.served]? = some 0) ∧
    Instr.gfmul ≠ .encrypt ∧ Instr.gfmul ≠ .decrypt ∧ ChecksPass (decState tagT) ∧
    0 < ((decState tagT).inLen.toNat + 15) / 16 ∧
    decryptTag (decState tagT).cipher.apply (decState tagT) = (decState tagT).tag ∧
    decryptTag (decState 0).cipher.apply (decState 0) ≠ (decState 0).tag := by decide +kernel

theorem witness_CipherRequestHeld :
    askingState.seq = .busy ∧ askingState.cReq = some 0 ∧
    (∃ t, step askingState = .next t) ∧ askingState.events.head? ≠ some .cipherAck ∧
    (∀ d, askingState.events.head? ≠ some (.reset d)) ∧
    { askingState with events := [.cipherAck] }.events = .cipherAck :: [] :=
  ⟨rfl, rfl, ⟨_, rfl⟩, by decide, fun _ => by simp [askingState, encState, engineState, busyWith, State.reset, State.memWrite],
    rfl⟩

/-- V-ENC-2 right after its issue, with three requests to come. -/
theorem witness_AnsweredWindowCompletes :
    let s := { encState with events := [.engine, .cipherAck, .engine, .cipherAck, .engine, .cipherAck, .engine] }
    s.seq = .busy ∧ s.cReq = none ∧ (cipherCalls (decode s.cmdl) s).length = s.served + 3 ∧
    s.events = (List.replicate 3 [Event.engine, Event.cipherAck]).flatten ++ Event.engine :: [] := by decide +kernel

theorem witness_SilentCipherHangs :
    let s := { askingState with events := [.engine, .host (.write 0x008 1), .setKey oracle] }
    s.seq = .busy ∧ s.cReq = some 0 ∧ ∀ e ∈ s.events, e ≠ .cipherAck ∧ ∀ d, e ≠ .reset d := by
  refine ⟨rfl, rfl, fun e he => ?_⟩
  simp only [List.mem_cons, List.not_mem_nil, or_false] at he
  rcases he with rfl | rfl | rfl <;> simp

theorem witness_HostReadsProduct :
    let s := { State.reset with events := [.host (.write 0x008 1), .engine, .host (.read 0x06C)] }
    s.seq = .idle ∧
    s.events = cmd .gfmul ++ .engine :: rd (BitVec.ofNat 17 (0x060 + 4 * (3 : Fin 4).val)) ++ [] := by decide

theorem witness_MemReadAfterMemWrite : 0x1f < 0x20 ∧ 0x20 + (be 16 7).length ≤ 0x30 ∧ 15 < 16 := by decide

end Sys2Proof.Tests
end

section
/-! PROOF. The chunks of a byte sequence (00_scope.md R8): what they join to, how many they are, and how long each is. -/

namespace Sys2Proof.Machine

theorem flatten_chunks (s : List Byte) : (chunks s).flatten = s := by
  induction s using chunk_induction with
  | nil => rfl
  | step s hs ih => rw [chunks_cons hs, List.flatten_cons, ih, List.take_append_drop]

theorem length_chunksN (n : Nat) (s : List Byte) : (chunksN n s).length = n := by
  induction n generalizing s with
  | zero => rfl
  | succ n ih => rw [chunksN, List.length_cons, ih]

theorem length_chunks (s : List Byte) : (chunks s).length = chunkCount s.length := length_chunksN _ s

theorem length_of_mem_chunks {s c : List Byte} (hc : c ∈ chunks s) : 1 ≤ c.length ∧ c.length ≤ 16 := by
  induction s using chunk_induction with
  | nil => simp [chunks_nil] at hc
  | step s hs ih =>
    rw [chunks_cons hs, List.mem_cons] at hc
    obtain rfl | hc := hc
    · have hpos : 0 < s.length := List.length_pos_iff.mpr hs
      rw [List.length_take]
      omega
    · exact ih hc

/-- A chunk that is not the last has bytes after it, so it is whole. -/
theorem length_of_mem_dropLast_chunks {s c : List Byte} (hc : c ∈ (chunks s).dropLast) : c.length = 16 := by
  induction s using chunk_induction with
  | nil => simp [chunks_nil] at hc
  | step s hs ih =>
    rw [chunks_cons hs] at hc
    by_cases hrest : s.drop 16 = []
    · simp [hrest, chunks_nil] at hc
    · have hne : chunks (s.drop 16) ≠ [] := by simp [chunks_cons hrest]
      rw [List.dropLast_cons_of_ne_nil hne, List.mem_cons] at hc
      obtain rfl | hc := hc
      · have hlong : 0 < (s.drop 16).length := List.length_pos_iff.mpr hrest
        rw [List.length_drop] at hlong
        rw [List.length_take]
        omega
      · exact ih hc

/-- Settles O16: the count by induction on the number of chunks, the rest along the chunks of the sequence. -/
theorem chunksPartition : Obligations.ChunksPartition := fun s =>
  ⟨flatten_chunks s, length_chunks s, fun _ => length_of_mem_chunks, fun _ => length_of_mem_dropLast_chunks⟩

end Sys2Proof.Machine
end

section
/-! PROOF. Which register an offset names, and what a read or a write of it does (10_state.md R10, R11, 20_memory.md R42). -/

namespace Sys2Proof.Machine

theorem mem_regRows {n : Nat} {r : Reg} (h : regRows.lookup n = some r) : (n, r) ∈ regRows := by
  obtain ⟨l₁, l₂, hl, -⟩ := List.lookup_eq_some_iff.1 h
  simp [hl]

/-- Register offsets are below 0x080 and aligned (R10, R34). -/
theorem regRows_range : ∀ p ∈ regRows, p.1 < 128 ∧ p.1 % 4 = 0 := by decide

/-- No register word has two offsets (R10). -/
theorem regRows_inj : ∀ p ∈ regRows, ∀ q ∈ regRows, p.2 = q.2 → p.1 = q.1 := by decide +kernel

section Named

variable {off : Offset} {r : Reg} (hr : regRows.lookup off.toNat = some r)
include hr

theorem targetOf_regRow (b : Nat) : targetOf b off = .reg r := by
  obtain ⟨hn, h4⟩ := regRows_range _ (mem_regRows hr)
  exact targetOf_reg rfl hn h4 hr

/-- A register that BUSY does not hide reads its value in every state (R42). -/
theorem readValue_visible (hv : r.hiddenWhileBusy = false) (s : State) : readValue off s = some (s.regValue r) := by
  simp [readValue, hostAccess, hostRead, targetOf_regRow hr, hv]

theorem hostAccess_read_idle {s : State} (hs : s.seq = .idle) : hostAccess (.read off) s = s.answer (s.regValue r) := by
  simp [hostAccess, hostRead, targetOf_regRow hr, State.isBusy, hs]

theorem readValue_idle {s : State} (hs : s.seq = .idle) : readValue off s = some (s.regValue r) := by
  rw [readValue, hostAccess_read_idle hr hs, State.answer_hRdata]

/-- BUSY drops every register write but one to STATUS (R19, R43). -/
theorem hostAccess_write_reg (s : State) (w : Word) :
    hostAccess (.write off w) s = if s.isBusy && decide (r ≠ .status) then s.setWbusy else s.writeReg w r := by
  rw [hostAccess, hostWrite, targetOf_regRow hr]

theorem hostAccess_write_idle {s : State} (hs : s.seq = .idle) (w : Word) :
    hostAccess (.write off w) s = s.writeReg w r := by
  simp [hostAccess_write_reg hr, State.isBusy, hs]

end Named

/-- The words of the 128-bit registers stand in the register map at base + 4j (R11). -/
theorem regRows_blockWords : ∀ j : Fin 4,
    regRows.lookup (BitVec.ofNat 17 (0x040 + 4 * j.val)).toNat = some (.opa j) ∧
    regRows.lookup (BitVec.ofNat 17 (0x050 + 4 * j.val)).toNat = some (.opb j) ∧
    regRows.lookup (BitVec.ofNat 17 (0x060 + 4 * j.val)).toNat = some (.res j) ∧
    regRows.lookup (BitVec.ofNat 17 (0x070 + 4 * j.val)).toNat = some (.tag j) := by decide

/-- Settles O42: each offset's row of the register map, and the IDLE read of that register. -/
theorem registerMapReads : Obligations.RegisterMapReads := by
  intro s hs
  refine ⟨readValue_idle (r := .id) rfl hs, readValue_idle (r := .bufsz) rfl hs, readValue_idle (r := .cmd) rfl hs,
    readValue_idle (r := .cbsz) rfl hs, readValue_idle (r := .status) rfl hs, readValue_idle (r := .ivAddr) rfl hs,
    readValue_idle (r := .ivLen) rfl hs, readValue_idle (r := .aadAddr) rfl hs, readValue_idle (r := .aadLen) rfl hs,
    readValue_idle (r := .inAddr) rfl hs, readValue_idle (r := .inLen) rfl hs, readValue_idle (r := .outAddr) rfl hs,
    fun j => ?_⟩
  obtain ⟨hopa, hopb, hres, htag⟩ := regRows_blockWords j
  exact ⟨readValue_idle hopa hs, readValue_idle hopb hs, readValue_idle hres hs, readValue_idle htag hs⟩

/-- The registers that hold what the host writes: the descriptors, OPA, OPB and TAG (R10). -/
def Reg.stored : Reg → Bool
  | .ivAddr | .ivLen | .aadAddr | .aadLen | .inAddr | .inLen | .outAddr | .opa _ | .opb _ | .tag _ => true
  | .id | .bufsz | .cmd | .status | .cbsz | .res _ => false

/-- The registers at the read-write offsets, in their order (R10). -/
def readWriteRegs : List Reg :=
  [.ivAddr, .ivLen, .aadAddr, .aadLen, .inAddr, .inLen, .outAddr,
   .opa 0, .opa 1, .opa 2, .opa 3, .opb 0, .opb 1, .opb 2, .opb 3, .tag 0, .tag 1, .tag 2, .tag 3]

/-- The registers at the read-only offsets, in their order (R10). -/
def readOnlyRegs : List Reg := [.id, .bufsz, .cbsz, .res 0, .res 1, .res 2, .res 3]

theorem readWriteOffsets_rows :
    readWriteOffsets.map (fun off => regRows.lookup off.toNat) = readWriteRegs.map some := rfl

theorem readOnlyOffsets_rows :
    readOnlyOffsets.map (fun off => regRows.lookup off.toNat) = readOnlyRegs.map some := rfl

/-- An offset of a list names the register at its place in the list of registers. -/
theorem exists_reg_of_rows {offs : List Offset} {regs : List Reg}
    (hrows : offs.map (fun off => regRows.lookup off.toNat) = regs.map some) {off : Offset} (ho : off ∈ offs) :
    ∃ r ∈ regs, regRows.lookup off.toNat = some r := by
  have hmem : regRows.lookup off.toNat ∈ regs.map some := hrows ▸ List.mem_map_of_mem ho
  obtain ⟨r, hr, heq⟩ := List.mem_map.1 hmem
  exact ⟨r, hr, heq.symm⟩

theorem stored_of_mem_readWriteRegs : ∀ r ∈ readWriteRegs, r.stored = true := by decide

/-- A write to a storing register changes nothing but descriptors, operands and TAG (R12, R13, R15, R22). -/
theorem writeReg_stored_frame {r : Reg} (hr : r.stored = true) (s : State) (w : Word) :
    (s.writeReg w r).buf = s.buf ∧ (s.writeReg w r).status = s.status ∧ (s.writeReg w r).seq = s.seq ∧
      SameOutside s (s.writeReg w r) := by
  cases r with
  | id | bufsz | cmd | status | cbsz | res j => exact absurd hr (by simp [Reg.stored])
  | _ => simp [State.writeReg, SameOutside]

theorem statusWord_congr {s t : State} (hst : t.status = s.status) (hseq : t.seq = s.seq) :
    t.statusWord = s.statusWord := by
  simp [State.statusWord, State.isBusy, hst, hseq]

/-- A storing register's word takes the value written, and no other register word changes (R11, R22). -/
theorem regValue_writeReg {r : Reg} (hr : r.stored = true) (s : State) (w : Word) (r' : Reg) :
    (s.writeReg w r).regValue r' = if r' = r then w else s.regValue r' := by
  obtain ⟨-, hstatus, hseq, -⟩ := writeReg_stored_frame hr s w
  cases r' with
  | status => rw [if_neg (by rintro rfl; cases hr)]; exact statusWord_congr hstatus hseq
  | _ =>
    cases r <;> simp [Reg.stored, State.writeReg, State.regValue, State.bufBytes, blockWord_setBlockWord] at hr ⊢

/-- Settles O44: the offset names a storing register, a different offset names a different one, and a write changes that
one word alone. -/
theorem registerWriteReadBack : Obligations.RegisterWriteReadBack := by
  intro s off w hs ho
  obtain ⟨r, hmem, hr⟩ := exists_reg_of_rows readWriteOffsets_rows ho
  have hst := stored_of_mem_readWriteRegs r hmem
  obtain ⟨hbuf, hstatus, hseq, hout⟩ := writeReg_stored_frame hst s w
  have hidle : (s.writeReg w r).seq = .idle := hseq.trans hs
  simp only [hostAccess_write_idle hr hs]
  refine ⟨?_, fun other hother hne => ?_, hbuf, hstatus, hidle, hout⟩
  · rw [readValue_idle hr hidle, regValue_writeReg hst, if_pos rfl]
  · obtain ⟨r', -, hr'⟩ := exists_reg_of_rows (regs := readWriteRegs ++ readOnlyRegs)
      (by rw [List.map_append, List.map_append, readWriteOffsets_rows, readOnlyOffsets_rows]) hother
    have hrr : r' ≠ r := fun h =>
      hne (BitVec.eq_of_toNat_eq (regRows_inj _ (mem_regRows hr') _ (mem_regRows hr) h))
    rw [readValue_idle hr' hidle, readValue_idle hr' hs, regValue_writeReg hst, if_neg hrr]

/-- BUF_BYTES is a power of two from 256 to 65536 (R4). -/
theorem bufBytes_range (s : State) : 256 ≤ s.bufBytes ∧ s.bufBytes ≤ 65536 ∧ ∃ k, s.bufBytes = 2 ^ k := by
  have hlog := s.bufLog.isLt
  exact ⟨Nat.pow_le_pow_right (n := 2) (by omega) (show 8 ≤ 8 + s.bufLog.val by omega),
    Nat.pow_le_pow_right (n := 2) (by omega) (show 8 + s.bufLog.val ≤ 16 by omega), _, rfl⟩

theorem RegWrote.bufLog {s t : State} (h : RegWrote s t) : t.bufLog = s.bufLog := by
  cases h with
  | ignored | issued w | status w => rfl
  | stored f hf => rw [hf]

theorem hostRead_bufLog (off : Offset) (s : State) : (hostRead off s).bufLog = s.bufLog := by
  obtain h | ⟨-, h⟩ | ⟨v, h⟩ := hostRead_cases off s <;> rw [h] <;> rfl

theorem hostWrite_bufLog (off : Offset) (w : Word) (s : State) : (hostWrite off w s).bufLog = s.bufLog := by
  obtain h | ⟨-, h⟩ | h | ⟨-, a, -, h⟩ | ⟨-, h⟩ := hostWrite_cases off w s
  · rw [h]; rfl
  · rw [h]; rfl
  · rw [h]
  · rw [h]; rfl
  · exact h.bufLog

theorem exec_bufLog {i : Instr} {s t : State} (h : exec i s = .next t) : t.bufLog = s.bufLog := by
  obtain ⟨u, e, hu, hw⟩ := exec_wrote i s
  obtain ⟨hlog, -⟩ := hw.outside
  cases hu.symm.trans h
  exact hlog

theorem engineMove_bufLog {s t : State} (h : engineMove s = .next t) : t.bufLog = s.bufLog := by
  obtain hm | ⟨-, b, hm⟩ | ⟨-, hm⟩ := engineMove_cases s
  · cases hm.symm.trans h; rfl
  · cases hm.symm.trans h; rfl
  · exact exec_bufLog (hm.symm.trans h)

/-- No event changes the parameter BUF_BYTES, a reset included (R4, R17). -/
theorem runEvent_bufLog {e : Event} {s t : State} (h : runEvent e s = .next t) : t.bufLog = s.bufLog := by
  cases e with
  | engine => exact engineMove_bufLog h
  | host a =>
    cases h
    cases a with
    | read off => exact hostRead_bufLog off s
    | write off w => exact hostWrite_bufLog off w s
  | cipherAck => cases h; unfold cipherAcknowledge; split <;> rfl
  | blockSize v | setKey u => cases h; rfl
  | reset during => cases h; rcases during with _ | _ | _ <;> rfl

theorem step_bufLog {s t : State} (h : step s = .next t) : t.bufLog = s.bufLog :=
  step_keeps (P := fun u => u.bufLog = s.bufLog) (fun _ _ hu => hu) (fun _ _ hu h => (engineMove_bufLog h).trans hu)
    (fun _ _ _ _ hu h => (runEvent_bufLog h).trans hu) rfl h

/-- Settles O43: BUSY hides none of the three registers, and no step changes BUF_BYTES. -/
theorem constantRegisters : Obligations.ConstantRegisters :=
  ⟨fun s => ⟨readValue_visible (r := .id) rfl rfl s, readValue_visible (r := .bufsz) rfl rfl s,
    readValue_visible (r := .cbsz) rfl rfl s⟩, bufBytes_range,
    fun s t h => by rw [State.bufBytes, State.bufBytes, step_bufLog h]⟩

end Sys2Proof.Machine
end

section
/-! PROOF. STATUS: the layout of its word, a host write to it, and the issue step (10_state.md R18, R19, R25). -/

namespace Sys2Proof.Machine

/-- Each field at its bits, for each error code and every value of the flags (R18, R96). -/
theorem word_layout (err : ErrCode) : ∀ done authOk authFail wbusy accerr busy : Bool,
    let w := Status.word ⟨done, authOk, authFail, err, wbusy, accerr⟩ busy
    w.getLsbD 0 = busy ∧ w.getLsbD 1 = done ∧ w.getLsbD 2 = authOk ∧ w.getLsbD 3 = authFail ∧
    w.extractLsb' 4 4 = err.code ∧ err.code.toNat ≤ 5 ∧ w.getLsbD 8 = wbusy ∧ w.getLsbD 9 = accerr ∧
    w.extractLsb' 10 22 = 0 := by
  cases err <;> decide +kernel

/-- Settles O38: the layout of every STATUS word, at the fields of the state. -/
theorem statusLayout : Obligations.StatusLayout := fun s =>
  word_layout s.status.err s.status.done s.status.authOk s.status.authFail s.status.wbusy s.status.accerr s.isBusy

theorem isBusy_iff (s : State) : s.isBusy = true ↔ s.seq = .busy := decide_eq_true_iff

/-- Settles O36: a write to CMD while IDLE is the issue step; bit 0 of the STATUS word is BUSY. -/
theorem cmdWriteIssues : Obligations.CmdWriteIssues := by
  refine ⟨rfl, fun s => ?_, fun s w hs => hostAccess_write_idle (r := .cmd) rfl hs w⟩
  obtain ⟨hbit, -⟩ := statusLayout s
  rw [hbit, isBusy_iff]

/-- STATUS takes a host write in every state (R19, R43). -/
theorem hostAccess_write_status (s : State) (w : Word) :
    hostAccess (.write 0x00C w) s = { s with status := s.status.writeOneToClear s.isBusy w } := by
  rw [hostAccess_write_reg (r := .status) rfl, if_neg (by simp)]
  rfl

/-- Bit 1 while IDLE clears the outcome (R19). -/
theorem writeOneToClear_clears {w : Word} (hw : w.getLsbD 1 = true) (st : Status) :
    st.writeOneToClear false w =
      { st.clearOutcome with wbusy := st.wbusy && !w.getLsbD 8, accerr := st.accerr && !w.getLsbD 9 } := by
  simp only [Status.writeOneToClear, hw]
  rfl

/-- Without bit 1, or while BUSY, only the sticky flags can change (R19). -/
theorem writeOneToClear_keeps {w : Word} {busy : Bool} (h : w.getLsbD 1 = false ∨ busy = true) (st : Status) :
    st.writeOneToClear busy w = { st with wbusy := st.wbusy && !w.getLsbD 8, accerr := st.accerr && !w.getLsbD 9 } := by
  have hcond : (w.getLsbD 1 && !busy) = false := by
    obtain h | h := h
    · rw [h, Bool.false_and]
    · rw [h, Bool.not_true, Bool.and_false]
  simp only [Status.writeOneToClear, hcond]
  rfl

/-- Settles O37: the write reaches STATUS in every state, and clears the outcome exactly with bit 1 while IDLE. -/
theorem statusWriteOneToClear : Obligations.StatusWriteOneToClear := by
  intro s w
  rw [hostAccess_write_status]
  refine ⟨fun hw hs => ?_, fun h => ?_, rfl, rfl, rfl⟩
  · have hbusy : s.isBusy = false := by simp [State.isBusy, hs]
    simp [hbusy, writeOneToClear_clears hw]
  · simp [writeOneToClear_keeps (h.imp_right (isBusy_iff s).2), SameAuth]

end Sys2Proof.Machine
end

section
/-! PROOF. What a completion step keeps (10_state.md R12 to R15, R22, R26), and that it reads no hidden register (R23). -/

namespace Sys2Proof.Machine

/-- Settles O27: every completion step is `finish` after one of the writes of `Wrote`. -/
theorem everyCommandEndsIdle : Obligations.EveryCommandEndsIdle := by
  intro i s
  obtain ⟨u, e, hexec, hw⟩ := exec_wrote i s
  obtain ⟨hwbusy, haccerr⟩ := hw.sticky
  exact ⟨_, e, hexec, ended_finish e hwbusy haccerr, sameOutside_finish e hw.outside⟩

section Frames

variable {s t : State}

/-- GFMUL, INCR, GHASH and Y0DERIVE write no register but RES and STATUS, and not BUF (R14). -/
theorem exec_unit_frame {i : Instr} (hi : i = .gfmul ∨ i = .incr ∨ i = .ghash ∨ i = .y0derive)
    (h : exec i s = .next t) : SameOperands s t ∧ SameDescriptors s t ∧ t.tag = s.tag ∧ SameBuf s t := by
  obtain ⟨v, st, e, rfl⟩ : ∃ v st e, t = State.finish { s with res := v, status := st } e := by
    obtain rfl | rfl | rfl | rfl := hi
    · cases (exec_gfmul s).symm.trans h; exact ⟨_, _, _, rfl⟩
    · cases (exec_incr s).symm.trans h; exact ⟨_, _, _, rfl⟩
    · cases hc : ghashCheck s with
      | some e => cases (exec_ghash_error hc).symm.trans h; exact ⟨_, _, _, rfl⟩
      | none => cases (exec_ghash_ok hc).symm.trans h; exact ⟨_, _, _, rfl⟩
    · cases hc : y0Check s with
      | some e => cases (exec_y0derive_error hc).symm.trans h; exact ⟨_, _, _, rfl⟩
      | none => cases (exec_y0derive_ok hc).symm.trans h; exact ⟨_, _, _, rfl⟩
  simp [SameOperands, SameDescriptors, SameBuf, State.readByte]

/-- ENCRYPT writes no register but TAG and STATUS (R15, R80). -/
theorem exec_encrypt_frame (h : exec .encrypt s = .next t) :
    SameOperands s t ∧ SameDescriptors s t ∧ t.res = s.res := by
  cases hc : precheck s with
  | some e =>
    cases (exec_encrypt_error hc).symm.trans h
    simp [SameOperands, SameDescriptors]
  | none =>
    cases (exec_encrypt_ok hc).symm.trans h
    simp [SameOperands, SameDescriptors, encryptRule, State.writeBytes_eq, State.writeTag_eq, State.writeAuth_eq]

/-- DECRYPT writes no register but STATUS (R81). -/
theorem exec_decrypt_frame (h : exec .decrypt s = .next t) :
    SameOperands s t ∧ SameDescriptors s t ∧ t.res = s.res ∧ t.tag = s.tag := by
  cases hc : precheck s with
  | some e =>
    cases (exec_decrypt_error hc).symm.trans h
    simp [SameOperands, SameDescriptors]
  | none =>
    cases (exec_decrypt_ok hc).symm.trans h
    unfold decryptRule
    dsimp only
    split <;> simp [SameOperands, SameDescriptors, State.writeBytes_eq, State.writeAuth_eq]

end Frames

/-- Settles O28: the frame of each command, CLEAR being allowed everything and a reserved word changing nothing. -/
theorem registerWriters : Obligations.RegisterWriters := by
  intro i s t h
  cases i with
  | gfmul | incr | ghash | y0derive =>
    obtain ⟨hop, hdesc, htag, hbuf⟩ := exec_unit_frame (by simp) h
    exact ⟨fun _ => ⟨hop, hdesc⟩, fun _ _ => htag, by simp, fun _ _ _ => hbuf⟩
  | encrypt =>
    obtain ⟨hop, hdesc, hres⟩ := exec_encrypt_frame h
    exact ⟨fun _ => ⟨hop, hdesc⟩, by simp, fun _ _ _ _ _ => hres, by simp⟩
  | decrypt =>
    obtain ⟨hop, hdesc, hres, htag⟩ := exec_decrypt_frame h
    exact ⟨fun _ => ⟨hop, hdesc⟩, fun _ _ => htag, fun _ _ _ _ _ => hres, by simp⟩
  | clear => simp
  | illegalOp0 | illegalOp8F op | illegalRsv op rsv =>
    cases h
    obtain ⟨-, hdesc, hop, hres, htag, hbuf, -, hout⟩ := errorEnd_finish s .illegalCommand
    obtain ⟨-, -, -, -, -, -, hdraw, -⟩ := hout
    exact ⟨fun _ => ⟨hop, hdesc⟩, fun _ _ => htag, fun _ _ _ _ _ => hres, fun _ _ _ => readByte_congr hbuf hdraw⟩

/-- No command reads a hidden register, and the end of every command overwrites them all (R23, R26). -/
theorem exec_setHidden (i : Instr) (s : State) (h : Hidden) : exec i (s.setHidden h) = exec i s := by
  cases i <;> rfl

end Sys2Proof.Machine
end

section
/-! PROOF. Steps: hidden registers have no address (10_state.md R23), the completion step runs the decoded CMDL (R26), and
a GFMUL on the bus from its issue to the read of RES. -/

namespace Sys2Proof.Machine

@[simp] theorem setHidden_bufBytes (s : State) (h : Hidden) : (s.setHidden h).bufBytes = s.bufBytes := rfl
@[simp] theorem setHidden_isBusy (s : State) (h : Hidden) : (s.setHidden h).isBusy = s.isBusy := rfl

theorem hostRead_setHidden (off : Offset) (s : State) (h : Hidden) :
    hostRead off (s.setHidden h) = (hostRead off s).setHidden h := by
  unfold hostRead
  rw [setHidden_bufBytes, setHidden_isBusy]
  cases targetOf s.bufBytes off with
  | misaligned | unmapped => rfl
  | bufWord a => cases s.isBusy <;> rfl
  | reg r =>
    dsimp only
    split <;> rfl

theorem writeReg_setHidden (s : State) (h : Hidden) (w : Word) (r : Reg) :
    (s.setHidden h).writeReg w r = (s.writeReg w r).setHidden h := by
  cases r <;> rfl

theorem hostWrite_setHidden (off : Offset) (w : Word) (s : State) (h : Hidden) :
    hostWrite off w (s.setHidden h) = (hostWrite off w s).setHidden h := by
  unfold hostWrite
  rw [setHidden_bufBytes, setHidden_isBusy]
  cases targetOf s.bufBytes off with
  | misaligned | unmapped => rfl
  | bufWord a => cases s.isBusy <;> rfl
  | reg r =>
    dsimp only
    split
    · rfl
    · exact writeReg_setHidden s h w r

theorem cipherAcknowledge_setHidden (s : State) (h : Hidden) :
    cipherAcknowledge (s.setHidden h) = (cipherAcknowledge s).setHidden h := by
  unfold cipherAcknowledge
  rw [State.setHidden_cReq]
  cases s.cReq <;> rfl

theorem nextCall_setHidden (s : State) (h : Hidden) : (s.setHidden h).nextCall? = s.nextCall? := by
  have hcalls : cipherCalls (decode s.cmdl) (s.setHidden h) = cipherCalls (decode s.cmdl) s := by
    cases decode s.cmdl <;> rfl
  simp [State.nextCall?, hcalls]

theorem engineMove_setHidden {s t : State} (h : Hidden) (hm : engineMove s = .next t) :
    ∃ h', engineMove (s.setHidden h) = .next (t.setHidden h') := by
  have hnext := nextCall_setHidden s h
  cases hseq : s.seq with
  | idle =>
    cases (engineMove_idle hseq).symm.trans hm
    exact ⟨h, engineMove_idle (s := s.setHidden h) hseq⟩
  | busy =>
    cases hreq : s.cReq with
    | some b =>
      cases (engineMove_holds hseq hreq).symm.trans hm
      exact ⟨h, engineMove_holds (s := s.setHidden h) hseq hreq⟩
    | none =>
      cases hcall : s.nextCall? with
      | some b =>
        cases (engineMove_asks hseq hreq hcall).symm.trans hm
        exact ⟨h, engineMove_asks (s := s.setHidden h) hseq hreq (hnext.trans hcall)⟩
      | none =>
        have hexec := (exec_setHidden (decode s.cmdl) s h).trans ((engineMove_completes hseq hreq hcall).symm.trans hm)
        exact ⟨t.hidden, (engineMove_completes (s := s.setHidden h) hseq hreq (hnext.trans hcall)).trans hexec⟩

/-- One event on two states that differ only in the hidden registers (R23). -/
theorem runEvent_setHidden {e : Event} {s t : State} (h : Hidden) (hr : runEvent e s = .next t) :
    ∃ h', runEvent e (s.setHidden h) = .next (t.setHidden h') := by
  cases e with
  | engine => exact engineMove_setHidden h hr
  | host a =>
    cases hr
    cases a with
    | read off => exact ⟨h, congrArg _ (hostRead_setHidden off s h)⟩
    | write off w => exact ⟨h, congrArg _ (hostWrite_setHidden off w s h)⟩
  | cipherAck =>
    cases hr
    exact ⟨h, congrArg _ (cipherAcknowledge_setHidden s h)⟩
  | blockSize v | setKey u => cases hr; exact ⟨h, rfl⟩
  | reset during => cases hr; exact ⟨_, rfl⟩

theorem step_setHidden {s t : State} (h : Hidden) (hs : step s = .next t) :
    ∃ h', step (s.setHidden h) = .next (t.setHidden h') := by
  cases he : s.events with
  | nil =>
    rw [step_nil he] at hs
    rw [step_nil (s := s.setHidden h) he]
    exact engineMove_setHidden h hs
  | cons e rest =>
    rw [step_cons he] at hs
    rw [step_cons (s := s.setHidden h) he]
    exact runEvent_setHidden h hs

/-- Settles O53: hidden registers commute with every event, and every command forgets them. -/
theorem hiddenRegistersHaveNoAddress : Obligations.HiddenRegistersHaveNoAddress := by
  refine ⟨fun s h t hs => ?_, fun i s h => exec_setHidden i s h⟩
  obtain ⟨h', ht⟩ := step_setHidden h hs
  exact ⟨_, ht, rfl⟩

/-- Settles O32: with every call answered the engine's move is the completion step. -/
theorem stepRunsDecodedCommand : Obligations.StepRunsDecodedCommand := by
  intro s rest hev hseq hreq hserved
  have hcall : (s.beginCycle rest).nextCall? = none := by
    have hcalls := cipherCalls_congr (decode s.cmdl) s rest none s.cReq s.served
    exact List.getElem?_eq_none (hcalls ▸ hserved)
  have hmove : step s = engineMove (s.beginCycle rest) := by
    obtain he | ⟨he, rfl⟩ := hev
    · exact step_cons he
    · exact step_nil he
  exact hmove.trans (engineMove_completes hseq hreq hcall)

/-- `withFetchWord` counts every call of the word as answered (log 3). -/
theorem served_withFetchWord (s : State) (nbits w : Nat) :
    (s.withFetchWord nbits w).served = (cipherCalls (decode (BitVec.ofNat 32 w)) (s.withFetchWord nbits w)).length := by
  have hcalls := cipherCalls_congr (decode (BitVec.ofNat 32 w)) (s.issue (BitVec.ofNat 32 w)) (.engine :: s.events)
    s.hRdata none (cipherCalls (decode (BitVec.ofNat 32 w)) (s.issue (BitVec.ofNat 32 w))).length
  exact (congrArg List.length hcalls).symm

/-- Settles O34: the state of `withFetchWord` meets the premises of the completion step. -/
theorem fetchedWordRunsNext : Obligations.FetchedWordRunsNext := fun s nbits w =>
  ⟨_, stepRunsDecodedCommand (s.withFetchWord nbits w) s.events (.inl rfl) rfl rfl (served_withFetchWord s nbits w).ge⟩

theorem run_succ {s t : State} (k : Nat) (h : step s = .next t) :
    Host.Core.run core (k + 1) s = Host.Core.run core k t := by
  simp [Host.Core.run, core, h]

/-- A host write to CMD while IDLE, as a step (R25). -/
theorem step_issues {s : State} {w : Word} {rest : List Event} (he : s.events = .host (.write 0x008 w) :: rest)
    (hs : s.seq = .idle) : step s = .next ((s.beginCycle rest).issue w) :=
  (step_cons he).trans (congrArg _ (hostAccess_write_idle (r := .cmd) rfl (s := s.beginCycle rest) hs w))

/-- An IDLE read of a register, as a step (R42). -/
theorem step_reads {s : State} {off : Offset} {r : Reg} {rest : List Event} (he : s.events = .host (.read off) :: rest)
    (hr : regRows.lookup off.toNat = some r) (hs : s.seq = .idle) :
    step s = .next ((s.beginCycle rest).answer ((s.beginCycle rest).regValue r)) :=
  (step_cons he).trans (congrArg _ (hostAccess_read_idle hr (s := s.beginCycle rest) hs))

theorem writeRes_clean {s : State} (hk : s.rekeyed = false) (b : Block) : s.writeRes b = s.setRes b := by
  rw [State.writeRes_eq, State.written_clean hk]

theorem writeAuth_clean {s : State} (hk : s.rekeyed = false) (ok fail : Bool) :
    s.writeAuth ok fail = s.setAuth ok fail := by
  rw [State.writeAuth_eq, State.written_clean hk, State.written_clean hk]

/-- GFMUL in a window without a rekey (R51). -/
theorem exec_gfmul_clean {s : State} (hk : s.rekeyed = false) :
    exec .gfmul s = .next (((s.setRes (multiply s.opa s.opb)).setAuth false false).finish .noError) := by
  have hk' : (s.setRes (multiply s.opa s.opb)).rekeyed = false := hk
  rw [exec_gfmul, writeRes_clean hk, writeAuth_clean hk']

/-- The completion step of GFMUL: it calls no cipher, so the engine's first move completes it (R51, R84). -/
theorem step_completes_gfmul {s : State} {rest : List Event} (he : s.events = .engine :: rest) (hseq : s.seq = .busy)
    (hreq : s.cReq = none) (hcmd : decode s.cmdl = .gfmul) (hk : s.rekeyed = false) :
    ∃ t, step s = .next t ∧ t.res = multiply s.opa s.opb ∧ t.seq = .idle ∧ t.status.done = true ∧
      t.status.err = .noError ∧ t.events = rest := by
  have hserved : (cipherCalls (decode s.cmdl) s).length ≤ s.served := by
    rw [hcmd]
    exact Nat.zero_le _
  have hstep := stepRunsDecodedCommand s rest (.inl he) hseq hreq hserved
  rw [hcmd] at hstep
  exact ⟨_, hstep.trans (exec_gfmul_clean (s := s.beginCycle rest) hk), rfl, rfl, rfl, rfl, rfl⟩

/-- Settles O59: the issue step, the completion step, and an IDLE read of the RES word. -/
theorem hostReadsProduct : Obligations.HostReadsProduct := by
  intro s j rest hs he
  obtain ⟨-, -, hrow, -⟩ := regRows_blockWords j
  have hdecode : decode (encode .gfmul) = .gfmul := by decide
  have hissue : step s = .next ((s.beginCycle (.engine :: rd _ ++ rest)).issue (encode .gfmul)) := step_issues he hs
  obtain ⟨t, hcomplete, hres, hseq, hdone, herr, hev⟩ := step_completes_gfmul
    (s := (s.beginCycle (.engine :: rd _ ++ rest)).issue (encode .gfmul)) (rest := rd _ ++ rest) rfl rfl rfl hdecode rfl
  rw [run_succ 2 hissue, run_succ 1 hcomplete, run_succ 0 (step_reads hev hrow hseq)]
  exact ⟨_, rfl, congrArg (fun b => some (blockWord b j)) hres, hseq, hdone, herr, rfl⟩

end Sys2Proof.Machine
end

section
/-! PROOF. The invariant of the state between steps (10_state.md R18, R23, R25, 20_memory.md R30, 60_exceptions.md R104). -/

namespace Sys2Proof.Machine

section Outcome

variable {s : State} (hok : s.status.authOk = false) (hfail : s.status.authFail = false)
include hok hfail

/-- With AUTHOK and AUTHFAIL clear, ERR may hold any code (R18). -/
theorem outcomeOk_of_auth_clear : s.outcomeOk := by
  simp [State.outcomeOk, hok, hfail]

theorem windowOk_of_outcome_clear (hdone : s.status.done = false) (herr : s.status.err = .noError) : s.windowOk :=
  fun _ => ⟨hdone, hok, hfail, herr⟩

end Outcome

/-- A STATUS write leaves the outcome alone, or clears all of it (R19). -/
theorem statusWrite_inv {s : State} (w : Word) (hs : s.Inv) :
    State.Inv { s with status := s.status.writeOneToClear s.isBusy w } := by
  obtain ⟨hbuf, hhidden, hout, hwin, hport⟩ := hs
  obtain ⟨hdone, hok, hfail, herr⟩ | ⟨-, hdone, hok, hfail, herr⟩ := writeOneToClear_outcome s.status s.isBusy w
  · refine ⟨hbuf, hhidden, ?_, ?_, hport⟩
    · simpa only [State.outcomeOk, hok, hfail, herr] using hout
    · simpa only [State.windowOk, hdone, hok, hfail, herr] using hwin
  · exact ⟨hbuf, hhidden, outcomeOk_of_auth_clear hok hfail, windowOk_of_outcome_clear hok hfail hdone herr, hport⟩

/-- The issue step clears the outcome as it opens the BUSY window (R25). -/
theorem issue_inv {s : State} (w : Word) (hs : s.Inv) : (s.issue w).Inv := by
  obtain ⟨hbuf, hhidden, -⟩ := hs
  exact ⟨hbuf, hhidden, outcomeOk_of_auth_clear rfl rfl, windowOk_of_outcome_clear rfl rfl rfl rfl, nofun⟩

/-- A word write inside BUF keeps it canonical and within BUF_BYTES (R30, R35). -/
theorem memWrite_inv {s : State} {a : Nat} {bs : List Byte} (ha : a + bs.length ≤ s.bufBytes) (hs : s.Inv) :
    (s.memWrite a bs).Inv := by
  obtain ⟨⟨hwf, hin⟩, hrest⟩ := hs
  exact ⟨⟨Memory.wf_setBytes bs s.buf a hwf, Memory.within_setBytes bs s.buf a ha hin⟩, hrest⟩

theorem RegWrote.inv {s t : State} (h : RegWrote s t) (hs : s.Inv) : t.Inv := by
  cases h with
  | ignored => exact hs
  | issued w => exact issue_inv w hs
  | status w => exact statusWrite_inv w hs
  | stored f hf => rw [hf]; exact hs

/-- A read touches nothing the invariant speaks of. -/
theorem hostRead_inv {s : State} (off : Offset) (hs : s.Inv) : (hostRead off s).Inv := by
  obtain h | ⟨-, h⟩ | ⟨v, h⟩ := hostRead_cases off s <;> rw [h] <;> exact hs

theorem hostWrite_inv {s : State} (off : Offset) (w : Word) (hs : s.Inv) : (hostWrite off w s).Inv := by
  obtain h | ⟨-, h⟩ | h | ⟨-, a, ha, h⟩ | ⟨-, h⟩ := hostWrite_cases off w s
  · rw [h]; exact hs
  · rw [h]; exact hs
  · rw [h]; exact statusWrite_inv w hs
  · rw [h]; exact memWrite_inv ha hs
  · exact h.inv hs

/-- An acknowledge counts a call only with a request outstanding, so only while BUSY (R104). -/
theorem cipherAcknowledge_inv {s : State} (hs : s.Inv) : (cipherAcknowledge s).Inv := by
  unfold cipherAcknowledge
  split
  · next b hreq =>
    obtain ⟨hbuf, hhidden, hout, hwin, hport⟩ := hs
    refine ⟨hbuf, hhidden, hout, hwin, fun hidle => ?_⟩
    obtain ⟨hnone, -⟩ := hport hidle
    exact absurd (hreq.symm.trans hnone) (by simp)
  · exact hs

/-- A rekey is marked in a BUSY window only (R104; log 11). -/
theorem setCipher_inv {s : State} (u : CipherUnit) (hs : s.Inv) : (setCipher u s).Inv := by
  obtain ⟨hbuf, hhidden, hout, hwin, hport⟩ := hs
  refine ⟨hbuf, hhidden, hout, hwin, fun hidle => ?_⟩
  have hseq : s.seq = .idle := hidle
  obtain ⟨hreq, hserved, hrekeyed⟩ := hport hseq
  exact ⟨hreq, hserved, by simp [setCipher, State.isBusy, hseq, hrekeyed]⟩

/-- A reset gives every field of the invariant its value in the reset state (R110). -/
theorem resetCycle_inv (during : Option Access) (s : State) : (resetCycle during s).Inv := by
  have hreset : s.applyReset.Inv :=
    ⟨⟨rfl, rfl⟩, rfl, outcomeOk_of_auth_clear rfl rfl, windowOk_of_outcome_clear rfl rfl rfl rfl, fun _ => ⟨rfl, rfl, rfl⟩⟩
  rcases during with _ | _ | _ <;> exact hreset

/-- From AUTHOK = AUTHFAIL = 0, a command sets at most one of AUTHOK, AUTHFAIL and ERR != 0 (R18). -/
theorem Wrote.outcomeOk {s u : State} {e : ErrCode} (h : Wrote s u e) (hok : s.status.authOk = false)
    (hfail : s.status.authFail = false) : (u.finish e).outcomeOk := by
  cases h with
  | error | result | cleared => exact outcomeOk_of_auth_clear hok hfail
  | decryptError => exact outcomeOk_of_auth_clear rfl rfl
  | product _ ok fail ha | sealed _ _ _ ok fail ha => exact ⟨ha, by simp [State.finish], by simp [State.finish]⟩
  | opened | rejected => simp [State.outcomeOk, State.finish]

/-- The completion step of a BUSY window, where AUTHOK and AUTHFAIL are 0 (R25, R26). -/
theorem exec_inv {i : Instr} {s t : State} (hbusy : s.seq = .busy) (hs : s.Inv) (h : exec i s = .next t) : t.Inv := by
  obtain ⟨hbuf, -, -, hwin, -⟩ := hs
  obtain ⟨-, hok, hfail, -⟩ := hwin hbusy
  obtain ⟨u, e, hu, hw⟩ := exec_wrote i s
  cases hu.symm.trans h
  exact ⟨hw.bufOk hbuf, rfl, hw.outcomeOk hok hfail, nofun, fun _ => ⟨rfl, rfl, rfl⟩⟩

theorem engineMove_inv {s t : State} (hs : s.Inv) (h : engineMove s = .next t) : t.Inv := by
  obtain hm | ⟨hbusy, b, hm⟩ | ⟨hbusy, hm⟩ := engineMove_cases s
  · cases hm.symm.trans h
    exact hs
  · cases hm.symm.trans h
    obtain ⟨hbuf, hhidden, hout, hwin, -⟩ := hs
    exact ⟨hbuf, hhidden, hout, hwin, fun hidle => absurd (hbusy.symm.trans hidle) (by simp)⟩
  · exact exec_inv hbusy hs (hm.symm.trans h)

theorem runEvent_inv {e : Event} {s t : State} (hs : s.Inv) (h : runEvent e s = .next t) : t.Inv := by
  cases e with
  | engine => exact engineMove_inv hs h
  | host a =>
    cases h
    cases a with
    | read off => exact hostRead_inv off hs
    | write off w => exact hostWrite_inv off w hs
  | cipherAck => cases h; exact cipherAcknowledge_inv hs
  | blockSize v => cases h; exact hs
  | setKey u => cases h; exact setCipher_inv u hs
  | reset during => cases h; exact resetCycle_inv during s

/-- Settles O51: the engine's move and every event keep the invariant. -/
theorem stepKeepsInvariant : Obligations.StepKeepsInvariant := fun _ _ =>
  step_keeps (fun _ _ hs => hs) (fun _ _ => engineMove_inv) (fun _ _ _ _ => runEvent_inv)

end Sys2Proof.Machine
end

section
/-! PROOF. Regions (20_memory.md R31 to R33) and MemRead after MemWrite (R28, R29). -/

namespace Sys2Proof.Machine

/-- A region that is not empty covers its last offset, and an empty one covers none (R31, R32). -/
theorem regionValid_iff_covers (n : Nat) (a len : Word) :
    regionValid n a len = true ↔ ∀ x, a.toNat ≤ x → x < a.toNat + len.toNat → x < n := by
  have hzero : len = 0 ↔ len.toNat = 0 := ⟨fun h => h ▸ rfl, fun h => BitVec.eq_of_toNat_eq h⟩
  rw [regionValid, Bool.or_eq_true, decide_eq_true_eq, decide_eq_true_eq, hzero]
  constructor
  · intro h x hlo hhi
    omega
  · intro h
    by_cases hlen : len.toNat = 0
    · exact .inl hlen
    · have hlast := h (a.toNat + len.toNat - 1) (by omega) (by omega)
      exact .inr (by omega)

/-- Two regions that overlap share the larger of their first offsets (R32). -/
theorem regionOverlap_iff_shares (a1 n1 a2 n2 : Word) :
    regionOverlap a1 n1 a2 n2 = true ↔
      ∃ x, (a1.toNat ≤ x ∧ x < a1.toNat + n1.toNat) ∧ (a2.toNat ≤ x ∧ x < a2.toNat + n2.toNat) := by
  simp only [regionOverlap, Bool.and_eq_true, decide_eq_true_eq]
  constructor
  · intro h
    exact ⟨max a1.toNat a2.toNat, by omega⟩
  · rintro ⟨x, h⟩
    omega

/-- Settles O23: validity at the last offset of the region, overlap at the larger of the two first offsets. -/
theorem regionsCoverBytes : Obligations.RegionsCoverBytes := ⟨regionValid_iff_covers, regionOverlap_iff_shares⟩

theorem memRead_memWrite (s : State) (a : Nat) (bs : List Byte) : (s.memWrite a bs).memRead a bs.length = bs := by
  apply List.ext_getElem (length_memRead _ _ _)
  intro k _ hk
  simp only [State.memRead, List.getElem_map, List.getElem_range, readByte_memWrite_inside s a k bs hk]

theorem getElem?_memRead (s : State) (a : Nat) {n k : Nat} (hk : k < n) :
    (s.memRead a n)[k]? = some (s.readByte (a + k)) := by
  rw [State.memRead, List.getElem?_map, List.getElem?_range hk, Option.map_some]

/-- Settles O47: byte by byte, inside and outside the bytes written. -/
theorem memReadAfterMemWrite : Obligations.MemReadAfterMemWrite := fun s a bs =>
  ⟨memRead_memWrite s a bs, fun b hb => readByte_memWrite_outside s a b bs hb, fun _ _ => getElem?_memRead s a, rfl⟩

end Sys2Proof.Machine
end

section
/-! PROOF. Accesses by offset: what an access of each target does, BUSY or not (20_memory.md R35 to R38, R42, R43). -/

namespace Sys2Proof.Machine

/-- An aligned, mapped offset names a BUF word or has a row in the register map (R10, R34). -/
theorem mapped_cases {n : Nat} {off : Offset} (h : MappedAt n off.toNat) :
    (∃ a, targetOf n off = .bufWord a ∧ off.toNat = 0x10000 + a) ∨ ∃ r, regRows.lookup off.toNat = some r := by
  obtain hbuf | ⟨r, -, -, hr⟩ := target_mapped h
  · exact .inl hbuf
  · exact .inr ⟨r, regMap_eq ▸ hr⟩

/-- RES and TAG, the registers BUSY hides, stand from 0x060 up (R10, R42). -/
theorem regRows_hidden : ∀ p ∈ regRows, p.2.hiddenWhileBusy = decide (0x60 ≤ p.1) := by decide

section Refused

variable {s : State} {off : Offset} (h : RefusedAt s.bufBytes off.toNat)
include h

theorem hostAccess_read_refused : hostAccess (.read off) s = s.setAccerr.answer 0 := by
  obtain ht | ht := target_refused h <;> rw [hostAccess, hostRead, ht]

theorem hostAccess_write_refused (w : Word) : hostAccess (.write off w) s = s.setAccerr := by
  obtain ht | ht := target_refused h <;> rw [hostAccess, hostWrite, ht]

end Refused

section BufWord

variable {s : State} {off : Offset} {a : Nat} (ht : targetOf s.bufBytes off = .bufWord a)
include ht

theorem hostAccess_read_buf :
    hostAccess (.read off) s = if s.isBusy then s.answerBusy else s.answer (s.bufWord a) := by
  rw [hostAccess, hostRead, ht]

theorem hostAccess_write_buf (w : Word) :
    hostAccess (.write off w) s = if s.isBusy then s.setWbusy else s.memWrite a (wordBytes w) := by
  rw [hostAccess, hostWrite, ht]

end BufWord

section Named

variable {off : Offset} {r : Reg} (hr : regRows.lookup off.toNat = some r)
include hr

theorem hostAccess_read_reg (s : State) :
    hostAccess (.read off) s =
      if s.isBusy && r.hiddenWhileBusy then s.answerBusy else s.answer (s.regValue r) := by
  rw [hostAccess, hostRead, targetOf_regRow hr]

/-- A register that BUSY does not hide is read in every state (R42). -/
theorem hostAccess_read_visible (hv : r.hiddenWhileBusy = false) (s : State) :
    hostAccess (.read off) s = s.answer (s.regValue r) := by
  rw [hostAccess_read_reg hr, hv, Bool.and_false, if_neg (by simp)]

theorem hidden_of_high_offset (hhigh : 0x60 ≤ off.toNat) : r.hiddenWhileBusy = true :=
  (regRows_hidden _ (mem_regRows hr)).trans (decide_eq_true hhigh)

theorem visible_of_low_offset (hlow : off.toNat < 0x60) : r.hiddenWhileBusy = false :=
  (regRows_hidden _ (mem_regRows hr)).trans (decide_eq_false (by omega))

/-- Only 0x00C names STATUS (R10). -/
theorem ne_status_of_offset (hne : off ≠ 0x00C) : r ≠ .status := by
  rintro rfl
  exact hne (BitVec.eq_of_toNat_eq
    (regRows_inj (off.toNat, .status) (mem_regRows hr) (0x00C, .status) (by decide) rfl))

end Named

/-- Below 0x060 a mapped offset names a register that BUSY does not hide (R10, R42). -/
theorem mapped_low {n : Nat} {off : Offset} (h : MappedAt n off.toNat) (hlow : off.toNat < 0x60) :
    ∃ r, regRows.lookup off.toNat = some r ∧ r.hiddenWhileBusy = false := by
  obtain ⟨a, -, ha⟩ | ⟨r, hr⟩ := mapped_cases h
  · omega
  · exact ⟨r, hr, visible_of_low_offset hr hlow⟩

/-- Settles O39: a BUF word and a register word other than STATUS are dropped alike; STATUS keeps only its sticky bits'
clearing. -/
theorem busyWritesDropped : Obligations.BusyWritesDropped := by
  intro s off w hs
  have hbusy : s.isBusy = true := (isBusy_iff s).2 hs
  refine ⟨fun hmap hne => ?_, ?_, fun href => hostAccess_write_refused href w⟩
  · obtain ⟨a, ht, -⟩ | ⟨r, hr⟩ := mapped_cases hmap
    · rw [hostAccess_write_buf ht, if_pos hbusy]
      rfl
    · rw [hostAccess_write_reg hr, if_pos (by simp [hbusy, ne_status_of_offset hr hne])]
      rfl
  · rintro rfl
    rw [hostAccess_write_status, writeOneToClear_keeps (.inr hbusy)]

/-- SEQ shows in no register but STATUS (R25). -/
theorem regValue_setSeq {r : Reg} (hne : r ≠ .status) (s : State) (q : Seq) :
    State.regValue { s with seq := q } r = s.regValue r := by
  cases r with
  | status => exact absurd rfl hne
  | _ => rfl

/-- Settles O40: BUF words and the registers from 0x060 up are hidden, those below are read as while IDLE. -/
theorem busyReads : Obligations.BusyReads := by
  intro s off hs h4
  have hbusy : s.isBusy = true := (isBusy_iff s).2 hs
  refine ⟨fun hrange => ?_, ?_, fun hlow hun hne => ?_⟩
  · have hmap : MappedAt s.bufBytes off.toNat := ⟨h4, by unfold UnmappedAt; omega⟩
    obtain ⟨a, ht, -⟩ | ⟨r, hr⟩ := mapped_cases hmap
    · rw [hostAccess_read_buf ht, if_pos hbusy]
      rfl
    · obtain ⟨hlt : off.toNat < 128, -⟩ := regRows_range _ (mem_regRows hr)
      have hhidden := hidden_of_high_offset hr (by omega)
      rw [hostAccess_read_reg hr, if_pos (by simp [hbusy, hhidden])]
      rfl
  · rintro rfl
    exact hostAccess_read_visible (r := .status) rfl rfl s
  · obtain ⟨r, hr, hv⟩ := mapped_low ⟨h4, hun⟩ hlow
    have hvalue : readValue off { s with seq := .idle } = some (s.regValue r) :=
      (readValue_visible hr hv _).trans (congrArg some (regValue_setSeq (ne_status_of_offset hr hne) s .idle))
    rw [hvalue]
    exact hostAccess_read_visible hr hv s

/-- A write to a read-only register is ignored (R37). -/
theorem writeReg_readOnly (s : State) (w : Word) : ∀ r ∈ readOnlyRegs, s.writeReg w r = s := by
  simp [readOnlyRegs, State.writeReg]

/-- Settles O41: refused offsets name nothing, read-only offsets name registers that ignore writes, and CMD reads 0. -/
theorem refusedAccesses : Obligations.RefusedAccesses := by
  refine ⟨fun s off w h => ⟨hostAccess_read_refused h, hostAccess_write_refused h w⟩, fun s off w hs ho => ?_,
    hostAccess_read_visible (r := .cmd) rfl rfl⟩
  obtain ⟨r, hmem, hr⟩ := exists_reg_of_rows readOnlyOffsets_rows ho
  rw [hostAccess_write_idle hr hs, writeReg_readOnly s w r hmem]

/-- A read at a mapped offset gives a value, free exactly where BUSY hides it (R38, R42). -/
theorem hostAccess_read_mapped {s : State} {off : Offset} (h : MappedAt s.bufBytes off.toNat) :
    (s.seq = .busy ∧ hostAccess (.read off) s = s.answerBusy) ∨ ∃ v, hostAccess (.read off) s = s.answer v := by
  obtain ⟨a, ht, -⟩ | ⟨r, hr⟩ := mapped_cases h
  · rw [hostAccess_read_buf ht]
    split
    · next hbusy => exact .inl ⟨(isBusy_iff s).1 hbusy, rfl⟩
    · exact .inr ⟨_, rfl⟩
  · rw [hostAccess_read_reg hr]
    split
    · next hcond =>
      obtain ⟨hbusy, -⟩ := Bool.and_eq_true_iff.1 hcond
      exact .inl ⟨(isBusy_iff s).1 hbusy, rfl⟩
    · exact .inr ⟨_, rfl⟩

/-- Settles O46: a mapped read sets `h_rdata`, and draws a free value only while BUSY. -/
theorem readsHaveNoEffect : Obligations.ReadsHaveNoEffect := by
  intro s off h
  obtain ⟨hbusy, hread⟩ | ⟨v, hread⟩ := hostAccess_read_mapped h
  · exact ⟨_, _, hread, fun hidle => absurd (hbusy.symm.trans hidle) (by simp)⟩
  · exact ⟨some v, s.draws, hread, fun _ => rfl⟩

end Sys2Proof.Machine
end

section
/-! PROOF. BUF words on the host bus (20_memory.md R35). -/

namespace Sys2Proof.Machine

/-- Four bytes side by side are the 32 bits they were taken from (R35). -/
theorem append_bytes_eq_word {n : Nat} (x : BitVec n) (k : Nat) :
    x.extractLsb' (k + 24) 8 ++ x.extractLsb' (k + 16) 8 ++ x.extractLsb' (k + 8) 8 ++ x.extractLsb' k 8 =
      x.extractLsb' k 32 := by
  rw [BitVec.extractLsb'_append_extractLsb'_eq_extractLsb' (start₂ := k + 24) (start₁ := k + 16) (len₁ := 8) rfl,
    BitVec.extractLsb'_append_extractLsb'_eq_extractLsb' (start₂ := k + 16) (start₁ := k + 8) (len₁ := 8) rfl,
    BitVec.extractLsb'_append_extractLsb'_eq_extractLsb' (start₂ := k + 8) (start₁ := k) (len₁ := 8) rfl]

/-- Bytes 4j to 4j + 3 of a block make its word j (R6, R11). -/
theorem append_blockBytes (b : Block) (j : Fin 4) :
    blockByte b (4 * j.val) ++ blockByte b (4 * j.val + 1) ++ blockByte b (4 * j.val + 2) ++ blockByte b (4 * j.val + 3) =
      blockWord b j := by
  have hj := j.isLt
  rw [blockWord, ← append_bytes_eq_word b (96 - 32 * j.val)]
  simp only [blockByte, show 120 - 8 * (4 * j.val) = 96 - 32 * j.val + 24 by omega,
    show 120 - 8 * (4 * j.val + 1) = 96 - 32 * j.val + 16 by omega,
    show 120 - 8 * (4 * j.val + 2) = 96 - 32 * j.val + 8 by omega,
    show 120 - 8 * (4 * j.val + 3) = 96 - 32 * j.val by omega]

theorem blockByte_memRead (s : State) (c : Nat) {k : Nat} (hk : k < 16) :
    blockByte (blockOf (s.memRead c 16)) k = s.readByte (c + k) := by
  rw [blockByte_blockOf _ (length_memRead s c 16) k hk]
  simp only [State.memRead, List.getElem_map, List.getElem_range]

/-- A block in BUF is made of the same words as in a register (R11, R35). -/
theorem blockWord_memRead (s : State) (c : Nat) (j : Fin 4) :
    blockWord (blockOf (s.memRead c 16)) j = s.bufWord (c + 4 * j.val) := by
  have hj := j.isLt
  rw [← append_blockBytes, blockByte_memRead s c (by omega), blockByte_memRead s c (by omega),
    blockByte_memRead s c (by omega), blockByte_memRead s c (by omega)]
  rfl

/-- The four bytes a word write sets (R35). -/
theorem readByte_wordWrite (s : State) (a : Nat) (w : Word) :
    let t := s.memWrite a (wordBytes w)
    t.readByte a = w.extractLsb' 24 8 ∧ t.readByte (a + 1) = w.extractLsb' 16 8 ∧
      t.readByte (a + 2) = w.extractLsb' 8 8 ∧ t.readByte (a + 3) = w.extractLsb' 0 8 := by
  have hbyte := fun k => readByte_memWrite_inside s a k (wordBytes w)
  exact ⟨hbyte 0 (by simp), hbyte 1 (by simp), hbyte 2 (by simp), hbyte 3 (by simp)⟩

theorem bufWord_wordWrite (s : State) (a : Nat) (w : Word) : (s.memWrite a (wordBytes w)).bufWord a = w := by
  obtain ⟨h0, h1, h2, h3⟩ := readByte_wordWrite s a w
  rw [State.bufWord, h0, h1, h2, h3]
  exact (append_bytes_eq_word w 0).trans BitVec.extractLsb'_eq_self

/-- The window offset 0x10000 + a names the BUF word at a (R34, R35). -/
theorem targetOf_buf {s : State} {a : Nat} (h4 : a % 4 = 0) (ha : a + 4 ≤ s.bufBytes) :
    targetOf s.bufBytes (BitVec.ofNat 17 (0x10000 + a)) = .bufWord a := by
  obtain ⟨-, hmax, -⟩ := bufBytes_range s
  have hoff : (BitVec.ofNat 17 (0x10000 + a)).toNat = 0x10000 + a := by
    rw [BitVec.toNat_ofNat, Nat.mod_eq_of_lt (by omega)]
  rw [targetOf, targetAt, hoff, if_neg (by omega), if_pos (by omega), if_pos (by omega), Nat.add_sub_cancel_left]

section Word

variable {s : State} {a : Nat} (hs : s.seq = .idle) (h4 : a % 4 = 0) (ha : a + 4 ≤ s.bufBytes)
include hs h4 ha

theorem hostAccess_read_bufWord_idle :
    hostAccess (.read (BitVec.ofNat 17 (0x10000 + a))) s = s.answer (s.bufWord a) := by
  rw [hostAccess_read_buf (targetOf_buf h4 ha), if_neg (by simp [State.isBusy, hs])]

theorem hostAccess_write_bufWord_idle (w : Word) :
    hostAccess (.write (BitVec.ofNat 17 (0x10000 + a)) w) s = s.memWrite a (wordBytes w) := by
  rw [hostAccess_write_buf (targetOf_buf h4 ha), if_neg (by simp [State.isBusy, hs])]

theorem readValue_bufWord_idle : readValue (BitVec.ofNat 17 (0x10000 + a)) s = some (s.bufWord a) := by
  rw [readValue, hostAccess_read_bufWord_idle hs h4 ha, State.answer_hRdata]

end Word

/-- Settles O45: the IDLE read and write of the BUF word, byte by byte. -/
theorem bufWordsAreBigEndian : Obligations.BufWordsAreBigEndian := by
  intro s a w hs h4 ha
  obtain ⟨h0, h1, h2, h3⟩ := readByte_wordWrite s a w
  dsimp only
  rw [hostAccess_write_bufWord_idle hs h4 ha]
  refine ⟨hostAccess_read_bufWord_idle hs h4 ha, h0, h1, h2, h3,
    fun b => readByte_memWrite_outside s a b (wordBytes w), rfl, ?_, ?_⟩
  · rw [readValue_bufWord_idle (s := s.memWrite a (wordBytes w)) hs h4 ha, bufWord_wordWrite]
  · rintro c j - - rfl
    rw [readValue_bufWord_idle hs h4 ha, blockWord_memRead]

end Sys2Proof.Machine
end

section
/-! PROOF. Steps of a BUSY window (20_memory.md R42, R43, R45), and the step of each outside event (R39, 60_exceptions.md
R105). -/

namespace Sys2Proof.Machine

/-- The states that differ from `s` at most in the sticky flags, the cipher and its port, `h_rdata`, and the model's
counters and events: nothing a command reads or writes, and no register but STATUS (R42, R45). -/
inductive Frozen (s : State) : State → Prop
  | intro (wbusy accerr : Bool) (cReq : Option Block) (hRdata : Option Word) (cipher : CipherUnit) (served : Nat)
      (rekeyed : Bool) (draws : Nat) (events : List Event) :
      Frozen s { s with
        status := { s.status with wbusy := wbusy, accerr := accerr }
        cReq := cReq, hRdata := hRdata, cipher := cipher, served := served, rekeyed := rekeyed, draws := draws
        events := events }

theorem hostRead_frozen (off : Offset) (s : State) : Frozen s (hostRead off s) := by
  obtain h | ⟨-, h⟩ | ⟨v, h⟩ := hostRead_cases off s <;> rw [h] <;> exact .intro ..

/-- A move of the engine that does not complete the command at most raises a request (R26, R104). -/
theorem engineMove_frozen {s t : State} (h : engineMove s = .next t) (ht : t.seq = .busy) : Frozen s t := by
  obtain hm | ⟨-, b, hm⟩ | ⟨-, hm⟩ := engineMove_cases s
  · cases hm.symm.trans h
    exact .intro ..
  · cases hm.symm.trans h
    exact .intro ..
  · obtain ⟨u, e, hu, -⟩ := exec_wrote (decode s.cmdl) s
    cases hu.symm.trans (hm.symm.trans h)
    exact absurd ht nofun

section Window

variable {s t : State} (hs : s.seq = .busy)
include hs

/-- Every write of a BUSY window is refused, dropped, or clears sticky flags (R19, R43). -/
theorem hostWrite_frozen (off : Offset) (w : Word) : Frozen s (hostWrite off w s) := by
  have hbusy : s.isBusy = true := (isBusy_iff s).2 hs
  obtain h | ⟨-, h⟩ | h | ⟨hidle, -⟩ | ⟨hidle, -⟩ := hostWrite_cases off w s
  · rw [h]; exact .intro ..
  · rw [h]; exact .intro ..
  · rw [h, writeOneToClear_keeps (.inr hbusy)]; exact .intro ..
  · exact absurd (hbusy.symm.trans hidle) (by simp)
  · exact absurd (hbusy.symm.trans hidle) (by simp)

theorem runEvent_frozen {e : Event} (h : runEvent e s = .next t) (ht : t.seq = .busy) : Frozen s t := by
  cases e with
  | engine => exact engineMove_frozen h ht
  | host a =>
    cases h
    cases a with
    | read off => exact hostRead_frozen off s
    | write off w => exact hostWrite_frozen hs off w
  | cipherAck => cases h; unfold cipherAcknowledge; split <;> exact .intro ..
  | blockSize v =>
    cases h
    rw [reportBlockSize, if_pos ((isBusy_iff s).2 hs)]
    exact .intro ..
  | setKey u => cases h; exact .intro ..
  | reset during => cases h; rcases during with _ | _ | _ <;> exact absurd ht nofun

end Window

/-- With no event left the step is the engine's move, like the step of an `engine` event (log 2). -/
theorem step_runs_event (s : State) : ∃ e rest, step s = runEvent e (s.beginCycle rest) := by
  cases he : s.events with
  | nil => exact ⟨.engine, [], step_nil he⟩
  | cons e rest => exact ⟨e, rest, step_cons he⟩

theorem Frozen.of_beginCycle {s t : State} {rest : List Event} (h : Frozen (s.beginCycle rest) t) : Frozen s t := by
  cases h
  exact .intro ..

/-- A step that begins and ends in a BUSY window (R43, R45). -/
theorem step_frozen {s t : State} (hs : s.seq = .busy) (h : step s = .next t) (ht : t.seq = .busy) : Frozen s t := by
  obtain ⟨e, rest, he⟩ := step_runs_event s
  exact (runEvent_frozen (s := s.beginCycle rest) hs (he.symm.trans h) ht).of_beginCycle

theorem not_mappedAt_iff (n off : Nat) : ¬MappedAt n off ↔ RefusedAt n off := by
  rw [MappedAt, not_and_or, not_not]

section Reads

variable {s t : State} (h : Frozen s t)
include h

theorem Frozen.bufBytes : t.bufBytes = s.bufBytes := by
  cases h
  rfl

theorem Frozen.regValue {r : Reg} (hr : r ≠ .status) : t.regValue r = s.regValue r := by
  cases h
  cases r with
  | status => exact absurd rfl hr
  | _ => rfl

/-- Below 0x060 a read is refused or gives the value of a register that BUSY does not hide (R36, R37, R42). -/
theorem Frozen.readValue_eq {off : Offset} (hlow : off.toNat < 0x60) (hne : off ≠ 0x00C) :
    readValue off t = readValue off s := by
  by_cases hmap : MappedAt s.bufBytes off.toNat
  · obtain ⟨r, hr, hv⟩ := mapped_low hmap hlow
    rw [readValue_visible hr hv, readValue_visible hr hv, h.regValue (ne_status_of_offset hr hne)]
  · have href := (not_mappedAt_iff _ _).1 hmap
    rw [readValue, readValue, hostAccess_read_refused href,
      hostAccess_read_refused (h.bufBytes ▸ href), State.answer_hRdata, State.answer_hRdata]

end Reads

/-- Settles O54: a step of the window leaves a frozen state. -/
theorem windowFreezesInputs : Obligations.WindowFreezesInputs := by
  intro s t hs h ht
  have hfrozen := step_frozen hs h ht
  have hread := fun off => hfrozen.readValue_eq (off := off)
  cases hfrozen
  exact ⟨rfl, rfl, ⟨rfl, rfl, rfl, rfl, rfl, rfl, rfl⟩, ⟨rfl, rfl⟩, rfl, rfl, rfl, fun _ => rfl, rfl, rfl, ⟨rfl, rfl⟩, rfl,
    rfl, hread⟩

/-- Settles O33: the equation of a step with an event, for each event from outside the engine. -/
theorem stepTakesFirstEvent : Obligations.StepTakesFirstEvent := by
  refine fun s rest => ⟨fun a => step_cons, fun d => step_cons, fun v he => ?_, fun u => step_cons⟩
  rw [step_cons he, runEvent, reportBlockSize]
  simp [isBusy_iff]

end Sys2Proof.Machine
end

section
/-! PROOF. Decoding and encoding of command words (30_encoding.md R46, R47, R49): `decode` branch by branch, then the two
round trips. -/

namespace Sys2Proof

theorem decode_rsv {w : Word} (h : rsvField w ≠ 0) : decode w = .illegalRsv (opField w) (rsvField w) := if_pos h

theorem decode_op {w : Word} (h : rsvField w = 0) : decode w = decodeOp (opField w) := if_neg (not_not.mpr h)

theorem rsvField_eq_zero_iff (w : Word) : rsvField w = 0 ↔ w.toNat < 16 := by
  rw [← BitVec.toNat_inj, toNat_rsvField]
  change w.toNat / 16 = 0 ↔ w.toNat < 16
  omega

/-- OP from 8 to 15 is reserved (R47). -/
theorem decodeOp_reserved : ∀ {op : BitVec 4}, 8 ≤ op.toNat → decodeOp op = .illegalOp8F op := by decide

theorem encode_decodeOp : ∀ op : BitVec 4, encode (decodeOp op) = (0 : BitVec 28) ++ op := by decide

theorem decodeOp_wf : ∀ op : BitVec 4, (decodeOp op).wf = true := by decide

/-- Settles O3, by the rows of the opcode table: a reserved row's fields are the fields of its word, and its
well-formedness selects the branch of `decode` that answers it. -/
theorem decodeEncodeRoundTrip : Obligations.DecodeEncodeRoundTrip := by
  intro i hwf
  cases i with
  | illegalRsv op rsv =>
    have hrsv : rsv ≠ 0 := of_decide_eq_true hwf
    rw [encode, decode_rsv (by rwa [rsvField_append]), rsvField_append, opField_append]
  | illegalOp8F op =>
    have hop : 8 ≤ op.toNat := of_decide_eq_true hwf
    rw [encode, decode_op (rsvField_append 0 op), opField_append, decodeOp_reserved hop]
  | gfmul | incr | ghash | y0derive | encrypt | decrypt | clear | illegalOp0 => decide

/-- Settles O2: RSV is 0 exactly below 16, and there OP is the word. -/
theorem decodeFollowsOpcodeMap : Obligations.DecodeFollowsOpcodeMap := by
  refine ⟨fun w hw => decode_rsv ?_, fun w h8 h16 => ?_, by decide⟩
  · rw [Ne, rsvField_eq_zero_iff]
    omega
  · have hop : 8 ≤ (opField w).toNat := by rwa [toNat_opField, Nat.mod_eq_of_lt h16]
    rw [decode_op ((rsvField_eq_zero_iff w).mpr h16), decodeOp_reserved hop, opField]

/-- Settles O4: both branches of `decode` keep the two fields, and the fields are the word. -/
theorem encodeDecodeRoundTrip : Obligations.EncodeDecodeRoundTrip := by
  intro w
  by_cases h : rsvField w = 0
  · have hword : (0 : BitVec 28) ++ opField w = w := by rw [← h, ← word_eq_fields]
    rw [decode_op h]
    exact ⟨(encode_decodeOp _).trans hword, decodeOp_wf _⟩
  · rw [decode_rsv h]
    exact ⟨(word_eq_fields w).symm, decide_eq_true h⟩

/-- Settles O5: the words other than the seven fall in O2's three reserved clauses. -/
theorem otherWordsAreReserved : Obligations.OtherWordsAreReserved := by
  obtain ⟨hrsv, hop, hzero, -⟩ := decodeFollowsOpcodeMap
  rintro w (h0 | h7)
  · obtain rfl : w = 0 := BitVec.eq_of_toNat_eq (Nat.lt_one_iff.mp h0)
    exact .inl hzero
  · by_cases h16 : w.toNat < 16
    · exact .inr (.inl ⟨_, hop w h7 h16⟩)
    · exact .inr (.inr ⟨_, _, hrsv w (not_lt.mp h16)⟩)

/-- Settles O1, by running `decode` on the ten words. -/
theorem decodeSpecWords : Obligations.DecodeSpecWords := by
  unfold Obligations.DecodeSpecWords
  decide

end Sys2Proof
end

section
/-! PROOF. The multiplier (41_gf_multiplier.md R50 to R52): products by ONE, the commutation of two products, and GFMUL. -/

namespace Sys2Proof.Machine

/-- ONE is the unit block of bit 127. -/
theorem getLsbD_oneBlock (k : Nat) : oneBlock.getLsbD k = decide (k = 127) := by
  have hone : oneBlock = BitVec.twoPow 128 127 := by decide
  rw [hone, BitVec.getLsbD_twoPow]
  simp [eq_comm]

/-- ONE meets no reduction in 127 shifts: its one bit is still inside the block. -/
theorem shifted_oneBlock {n : Nat} (h : n < 128) : shifted oneBlock n = oneBlock >>> n := by
  induction n with
  | zero => rfl
  | succ n ih =>
    have hbit : (oneBlock >>> n).getLsbD 0 = false := by
      rw [BitVec.getLsbD_ushiftRight, getLsbD_oneBlock, decide_eq_false (by omega)]
    rw [shifted, ih (by omega), shiftReduce_eq, hbit, BitVec.shiftRight_add]
    simp

/-- Shifted n times, ONE is the unit block of bit 127 - n. -/
theorem getLsbD_shifted_oneBlock {n : Nat} (h : n < 128) (k : Nat) :
    (shifted oneBlock n).getLsbD k = decide (n + k = 127) := by
  rw [shifted_oneBlock h, BitVec.getLsbD_ushiftRight, getLsbD_oneBlock]

/-- With ONE as second operand, turn n adds bit 127 - n of X, in its place. -/
theorem getLsbD_turn_oneBlock (x : Block) {n : Nat} (h : n < 128) (k : Nat) :
    (if x.getLsbD (127 - n) then shifted oneBlock n else 0#128).getLsbD k = (decide (n + k = 127) && x.getLsbD k) := by
  by_cases hk : n + k = 127
  · rw [show 127 - n = k by omega]
    cases x.getLsbD k <;> simp [getLsbD_shifted_oneBlock h, hk]
  · cases x.getLsbD (127 - n) <;> simp [getLsbD_shifted_oneBlock h, hk]

/-- With ONE as second operand, the first n turns gather the n high bits of X. -/
theorem getLsbD_mulLoop_oneBlock (x : Block) {n : Nat} (h : n ≤ 128) (k : Nat) :
    (mulLoop x oneBlock n).1.getLsbD k = (decide (128 ≤ n + k) && x.getLsbD k) := by
  induction n with
  | zero =>
    have hx : 128 ≤ k → x.getLsbD k = false := BitVec.getLsbD_of_ge x k
    simpa using hx
  | succ n ih =>
    rw [mulLoop_fst_succ, BitVec.getLsbD_xor, ih (by omega), getLsbD_turn_oneBlock x (by omega)]
    have hk : decide (128 ≤ n + 1 + k) = (decide (128 ≤ n + k) ^^ decide (n + k = 127)) := by grind
    rw [hk, Bool.and_xor_distrib_right]

/-- ONE is the identity on the right (R52). -/
@[simp] theorem multiply_oneBlock (x : Block) : multiply x oneBlock = x := by
  refine BitVec.eq_of_getLsbD_eq fun k _ => ?_
  rw [multiply_eq_loop, getLsbD_mulLoop_oneBlock x le_rfl, decide_eq_true (Nat.le_add_right 128 k), Bool.true_and]

@[simp] theorem mulLoop_zero_right (x : Block) (n : Nat) : (mulLoop x 0#128 n).1 = 0#128 := by
  induction n with
  | zero => rfl
  | succ n ih => simp [mulLoop_fst_succ, ih]

/-- A product by X commutes with the shift and its reduction. -/
theorem mulLoop_shifted (x y : Block) (k n : Nat) :
    (mulLoop x (shifted y k) n).1 = shifted (mulLoop x y n).1 k := by
  induction n with
  | zero => simp
  | succ n ih =>
    have hturn : (if x.getLsbD (127 - n) then shifted (shifted y k) n else 0#128) =
        shifted (if x.getLsbD (127 - n) then shifted y n else 0#128) k := by
      split
      · rw [shifted_add, shifted_add, Nat.add_comm]
      · rw [shifted_zero]
    rw [mulLoop_fst_succ, mulLoop_fst_succ, ih, hturn, shifted_xor]

/-- Products by X and by Y commute: the product by X is linear and commutes with the shift, so it goes through each turn
of the product by Y. -/
theorem mulLoop_left_comm (x y z : Block) (n m : Nat) :
    (mulLoop x (mulLoop y z m).1 n).1 = (mulLoop y (mulLoop x z n).1 m).1 := by
  induction m with
  | zero => simp
  | succ m ih =>
    have hturn : (mulLoop x (if y.getLsbD (127 - m) then shifted z m else 0#128) n).1 =
        if y.getLsbD (127 - m) then shifted (mulLoop x z n).1 m else 0#128 := by
      split
      · exact mulLoop_shifted x z m n
      · exact mulLoop_zero_right x n
    rw [mulLoop_fst_succ, mulLoop_xor_right, ih, hturn, mulLoop_fst_succ y]

/-- X and Y as products of ONE, exchanged (R52). -/
theorem multiply_comm (x y : Block) : multiply x y = multiply y x := by
  calc multiply x y = multiply x (multiply y oneBlock) := by rw [multiply_oneBlock]
    _ = multiply y (multiply x oneBlock) := mulLoop_left_comm x y oneBlock 128 128
    _ = multiply y x := by rw [multiply_oneBlock]

@[simp] theorem multiply_zero (x : Block) : multiply x 0#128 = 0#128 := mulLoop_zero_right x 128

@[simp] theorem zero_multiply (y : Block) : multiply 0#128 y = 0#128 := (multiply_comm 0 y).trans (multiply_zero y)

@[simp] theorem oneBlock_multiply (y : Block) : multiply oneBlock y = y :=
  (multiply_comm oneBlock y).trans (multiply_oneBlock y)

/-- Settles O8: ONE's shifts are the unit blocks, and products commute because each is linear and commutes with the shift. -/
theorem multiplyLaws : Obligations.MultiplyLaws := fun x y =>
  ⟨multiply_comm x y, multiply_zero x, multiply_oneBlock x⟩

/-- The values GFMUL ends with in a window without a rekey (R51). -/
theorem exec_gfmul_values {s t : State} (hk : s.rekeyed = false) (h : exec .gfmul s = .next t) :
    t.res = multiply s.opa s.opb ∧ t.status.authOk = false ∧ t.status.authFail = false := by
  cases (exec_gfmul_clean hk).symm.trans h
  exact ⟨rfl, rfl, rfl⟩

/-- Settles O7: the values are `multiply`'s, whose corner cases are O8's laws; the frame is that of a unit command. -/
theorem gfmulResult : Obligations.GfmulResult := by
  refine ⟨fun s => ?_, by decide +kernel⟩
  obtain ⟨hop, hdesc, htag, hbuf⟩ := exec_unit_frame (.inl rfl) (exec_gfmul s)
  refine ⟨_, exec_gfmul s, fun hk => ?_, ended_finish .noError rfl rfl, hdesc, hop, htag, hbuf, rfl, ?_⟩
  · obtain ⟨hres, hok, hfail⟩ := exec_gfmul_values hk (exec_gfmul s)
    rw [hres]
    refine ⟨rfl, hok, hfail, ?_, fun ha => ?_, fun hb => ?_, multiply_comm _ _⟩
    · rintro (h0 | h0) <;> simp [h0]
    · rw [ha, oneBlock_multiply]
    · rw [hb, multiply_oneBlock]
  · exact sameOutside_finish .noError ⟨rfl, rfl, rfl, rfl, rfl, rfl, rfl, rfl⟩

end Sys2Proof.Machine
end

section
/-! PROOF. GHASH and the pre-counter block (42_ghash_iv.md R60 to R63): chunks of joined sequences, the running value over
padded chunks, the length block, and the two paths of an IV. -/

namespace Sys2Proof.Machine

/-- A sequence of 1 to 16 bytes is one chunk (R8). -/
theorem chunks_short {d : List Byte} (hpos : 1 ≤ d.length) (hle : d.length ≤ 16) : chunks d = [d] := by
  have hd : d ≠ [] := List.length_pos_iff.mp hpos
  rw [chunks_cons hd, List.take_of_length_le hle, List.drop_of_length_le hle, chunks_nil]

/-- After whole chunks, the next byte starts a new chunk (R8). -/
theorem chunks_append {c : List Byte} (hc : c.length % 16 = 0) (d : List Byte) :
    chunks (c ++ d) = chunks c ++ chunks d := by
  induction c using chunk_induction with
  | nil => rfl
  | step c hne ih =>
    have hpos : 0 < c.length := List.length_pos_iff.mpr hne
    have h16 : 16 ≤ c.length := by omega
    have hrest : (c.drop 16).length % 16 = 0 := by
      rw [List.length_drop]
      omega
    rw [chunks_cons hne, chunks_cons (List.append_ne_nil_of_left_ne_nil hne d), List.take_append_of_le_length h16,
      List.drop_append_of_le_length h16, ih hrest, List.cons_append]

/-- X after the padded chunks `cs`, before the length block (R60). -/
def ghashChunks (h : Block) (cs : List (List Byte)) : Block := (cs.map pad16).foldl (ghashStep h) 0

theorem ghash_eq_multiply (h : Block) (a c : List Byte) :
    ghash h a c = multiply (ghashChunks h (chunks a ++ chunks c) ^^^ lenblock a c) h := rfl

theorem ghashChunks_nil (h : Block) : ghashChunks h [] = 0#128 := rfl

theorem ghashChunks_concat (h : Block) (cs : List (List Byte)) (d : List Byte) :
    ghashChunks h (cs ++ [d]) = multiply (ghashChunks h cs ^^^ pad16 d) h := by
  rw [ghashChunks, List.map_append, List.foldl_append]
  rfl

/-- An empty C adds no chunk (R62). -/
theorem ghash_nil_right (h : Block) (a : List Byte) :
    ghash h a [] = multiply (ghashChunks h (chunks a) ^^^ lenblock a []) h := by
  rw [ghash_eq_multiply, chunks_nil, List.append_nil]

/-- Settles O13: a short sequence after whole chunks is the last chunk, and the last chunk is the last fold. -/
theorem ghashRecurrence : Obligations.GhashRecurrence := by
  refine ⟨fun h a c d hc hpos hle => ?_, ghash_nil_right, fun h a d ha hpos hle => ?_⟩
  · rw [ghash_eq_multiply, chunks_append hc, chunks_short hpos hle, ← List.append_assoc, ghashChunks_concat]
    rfl
  · rw [ghash_nil_right, chunks_append ha, chunks_short hpos hle, ghashChunks_concat]
    rfl

/-- The hash of nothing is a product of 0 (R62). -/
theorem ghash_nil_nil (h : Block) : ghash h [] [] = 0#128 := by
  have hblock : lenblock [] [] = 0#128 := by decide
  rw [ghash_nil_right, chunks_nil, ghashChunks_nil, hblock, BitVec.xor_self, zero_multiply]

/-- Every hash ends in a product by the key (R60). -/
theorem ghash_zero_key (a c : List Byte) : ghash 0#128 a c = 0#128 := by
  rw [ghash_eq_multiply, multiply_zero]

/-- Settles O14, by the products with 0. -/
theorem ghashOfEmptyAndZeroKey : Obligations.GhashOfEmptyAndZeroKey := ⟨ghash_nil_nil, ghash_zero_key⟩

/-- The length block as a number (R61). -/
theorem toNat_lenblock {a c : List Byte} (ha : 8 * a.length < 2 ^ 64) (hc : 8 * c.length < 2 ^ 64) :
    (lenblock a c).toNat = 8 * a.length * 2 ^ 64 + 8 * c.length := by
  rw [lenblock, toNat_append_64_64, BitVec.toNat_ofNat, BitVec.toNat_ofNat, Nat.mod_eq_of_lt ha, Nat.mod_eq_of_lt hc]

/-- Settles O15: below 2^32 bytes both bit lengths fit their halves, which are a quotient and a remainder. -/
theorem lengthBlockHalves : Obligations.LengthBlockHalves := by
  intro a c ha hc
  have hblock := toNat_lenblock (a := a) (c := c) (by omega) (by omega)
  rw [BitVec.extractLsb'_toNat, BitVec.extractLsb'_toNat, hblock, Nat.shiftRight_eq_div_pow, Nat.shiftRight_eq_div_pow]
  omega

/-- The direct path, as bytes (R63). -/
theorem bytesOf_y0_direct {iv : List Byte} (hiv : iv.length = 12) (h : Block) :
    bytesOf (y0 h iv) = iv ++ [0x00, 0x00, 0x00, 0x01] := by
  rw [y0, if_pos hiv, bytesOf_blockOf _ (by simp [hiv])]

/-- The GHASH path (R63). -/
theorem y0_ghash_path {iv : List Byte} (hiv : iv.length ≠ 12) (h : Block) : y0 h iv = ghash h [] iv := if_neg hiv

/-- Settles O17: the two branches of `y0`; the left half of the length block of an empty A is 0. -/
theorem ivPaths : Obligations.IvPaths := fun h _ =>
  ⟨fun hiv => bytesOf_y0_direct hiv h, fun hiv => ⟨y0_ghash_path hiv h, rfl⟩⟩

end Sys2Proof.Machine
end

section
/-! PROOF. The commands GHASH and Y0DERIVE (42_ghash_iv.md R64, R65): their checks, and how a command ends that only
writes RES. -/

namespace Sys2Proof.Machine

section Checks

variable {s : State}

/-- GHASH checks its two regions, and nothing else (R64). -/
theorem ghashCheck_valid (haad : regionValid s.bufBytes s.aadAddr s.aadLen = true)
    (hin : regionValid s.bufBytes s.inAddr s.inLen = true) : ghashCheck s = none := by
  simp [ghashCheck, haad, hin]

theorem ghashCheck_invalid (h : regionValid s.bufBytes s.aadAddr s.aadLen = false ∨
    regionValid s.bufBytes s.inAddr s.inLen = false) : ghashCheck s = some .region := by
  obtain h | h := h <;> simp [ghashCheck, h]

theorem y0Check_empty (h : s.ivLen = 0) : y0Check s = some .invalidIvLength := if_pos h

theorem y0Check_valid (hne : s.ivLen ≠ 0) (h : regionValid s.bufBytes s.ivAddr s.ivLen = true) : y0Check s = none :=
  (if_neg hne).trans (if_pos h)

theorem y0Check_invalid (hne : s.ivLen ≠ 0) (h : regionValid s.bufBytes s.ivAddr s.ivLen = false) :
    y0Check s = some .region :=
  (if_neg hne).trans (if_neg (by simp [h]))

end Checks

/-- A region of length 0 is valid whatever its address (R32). -/
theorem regionValid_empty (n : Nat) (a : Word) : regionValid n a 0 = true := by simp [regionValid]

/-- In a window without a rekey, RES holds the value a unit command computes (R104). -/
theorem writeRes_finish_res {s : State} (hk : s.rekeyed = false) (v : Block) (e : ErrCode) :
    ((s.writeRes v).finish e).res = v := by
  rw [writeRes_clean hk]
  rfl

/-- A unit command that completes with a write of RES changes nothing but RES and its outcome (R14, R26). -/
theorem exec_unit_end {i : Instr} {s : State} {v : Block} (hi : i = .gfmul ∨ i = .incr ∨ i = .ghash ∨ i = .y0derive)
    (h : exec i s = .next ((s.writeRes v).finish .noError)) :
    let t := (s.writeRes v).finish .noError
    Ended s t .noError ∧ SameAuth s t ∧ SameDescriptors s t ∧ SameOperands s t ∧ t.tag = s.tag ∧ SameBuf s t ∧
      t.draws = s.draws ∧ SameOutside s t := by
  obtain ⟨hop, hdesc, htag, hbuf⟩ := exec_unit_frame hi h
  exact ⟨ended_finish .noError rfl rfl, ⟨rfl, rfl⟩, hdesc, hop, htag, hbuf, rfl,
    sameOutside_finish .noError ⟨rfl, rfl, rfl, rfl, rfl, rfl, rfl, rfl⟩⟩

/-- Settles O12: the check decides between `ghash` in RES, with O14's corner cases, and an error's end. -/
theorem ghashResult : Obligations.GhashResult := by
  refine ⟨fun s => ⟨fun haad hin => ?_, fun hinvalid => ?_⟩, regionValid_empty, by decide +kernel⟩
  · have hexec := exec_ghash_ok (ghashCheck_valid haad hin)
    refine ⟨_, hexec, fun hk => ?_, exec_unit_end (by simp) hexec⟩
    rw [writeRes_finish_res hk]
    refine ⟨rfl, fun h0 => ?_, fun ha hc => ?_⟩
    · rw [h0]
      exact ghash_zero_key _ _
    · rw [State.aadBytes, State.inBytes, ha, hc]
      exact ghash_nil_nil _
  · exact ⟨_, exec_ghash_error (ghashCheck_invalid hinvalid), errorEnd_finish s _, rfl, rfl⟩

/-- Settles O18: the checks in their order decide between `y0` in RES, by either path of O17, and an error's end. -/
theorem y0deriveResult : Obligations.Y0deriveResult := by
  refine ⟨fun s => ⟨fun hne hvalid => ?_, fun hempty => ?_, fun hne hinvalid => ?_⟩, by decide +kernel⟩
  · have hexec := exec_y0derive_ok (y0Check_valid hne hvalid)
    refine ⟨_, hexec, fun hk => ?_, exec_unit_end (by simp) hexec⟩
    rw [writeRes_finish_res hk]
    refine ⟨rfl, fun h12 => ?_, fun h12 h0 => ?_⟩
    · rw [State.ivBytes, h12]
      exact bytesOf_y0_direct (length_memRead s _ 12) s.opa
    · have hlen : s.ivBytes.length ≠ 12 := by
        rw [State.ivBytes, length_memRead]
        exact fun h => h12 (BitVec.eq_of_toNat_eq h)
      rw [y0_ghash_path hlen, h0]
      exact ghash_zero_key _ _
  · exact ⟨_, exec_y0derive_error (y0Check_empty hempty), errorEnd_finish s _, rfl, rfl⟩
  · exact ⟨_, exec_y0derive_error (y0Check_invalid hne hinvalid), errorEnd_finish s _, rfl, rfl⟩

end Sys2Proof.Machine
end

section
/-! PROOF. The counter generator (43_counter.md R70 to R73): the two fields of a counter block, and INCR. -/

namespace Sys2Proof.Machine

/-- incr keeps the 96 bits it does not count (R70). -/
@[simp] theorem incr_high (b : Block) : (incr b).extractLsb' 32 96 = b.extractLsb' 32 96 :=
  BitVec.extractLsb'_append_eq_left

/-- incr counts in the low 32 bits, whose sum wraps (R70). -/
@[simp] theorem incr_low (b : Block) : (incr b).extractLsb' 0 32 = b.extractLsb' 0 32 + 1 :=
  BitVec.extractLsb'_append_eq_right

/-- Settles O9: RES is `incr` of OPA, read by its two fields; the rest is the end of a unit command. -/
theorem incrResult : Obligations.IncrResult := by
  intro s
  have hexec := exec_incr s
  refine ⟨_, hexec, fun hk => ?_, exec_unit_end (by simp) hexec⟩
  rw [writeRes_finish_res hk]
  exact ⟨incr_high s.opa, by rw [incr_low, BitVec.toNat_add]; rfl⟩

/-- Every counter block has Y0's high 96 bits (R71). -/
theorem counterBlock_high (y : Block) (i : Nat) : (counterBlock y i).extractLsb' 32 96 = y.extractLsb' 32 96 := by
  induction i with
  | zero => rfl
  | succ i ih => rw [counterBlock_succ, incr_high, ih]

/-- The counter field of Y(i) is Y0's plus i (R71). -/
theorem counterBlock_low (y : Block) (i : Nat) :
    (counterBlock y i).extractLsb' 0 32 = y.extractLsb' 0 32 + BitVec.ofNat 32 i := by
  induction i with
  | zero => exact (BitVec.add_zero _).symm
  | succ i ih => rw [counterBlock_succ, incr_low, ih, BitVec.ofNat_add, ← BitVec.add_assoc]; rfl

/-- Settles O10: the two fields of Y(i), put together. -/
theorem counterBlockClosedForm : Obligations.CounterBlockClosedForm := by
  intro y i
  have hlow : BitVec.ofNat 32 (((y.extractLsb' 0 32).toNat + i) % 2 ^ 32) = y.extractLsb' 0 32 + BitVec.ofNat 32 i := by
    apply BitVec.eq_of_toNat_eq
    simp only [BitVec.toNat_add, BitVec.toNat_ofNat, Nat.mod_mod, Nat.add_mod_mod]
  rw [hlow, ← counterBlock_high y i, ← counterBlock_low, BitVec.extractLsb'_append_extractLsb']

/-- Settles O11: equal blocks have equal counter fields, so i and j agree modulo 2^32, and both are far below it. -/
theorem counterBlocksDistinct : Obligations.CounterBlocksDistinct := by
  intro y i j hi hj hne heq
  have hlow : y.extractLsb' 0 32 + BitVec.ofNat 32 i = y.extractLsb' 0 32 + BitVec.ofNat 32 j := by
    rw [← counterBlock_low, ← counterBlock_low, heq]
  have hmod : i % 2 ^ 32 = j % 2 ^ 32 := by
    simpa using congrArg BitVec.toNat ((BitVec.add_right_inj _).mp hlow)
  omega

end Sys2Proof.Machine
end

section
/-! PROOF. The keystream transform `ctr` (44_gcm_engine.md R85): its length, its bytes, and that it undoes itself. -/

namespace Sys2Proof.Machine

/-- The output has exactly len(D) bytes (R85). -/
theorem length_ctr (cipher : Block → Block) (y : Block) (d : List Byte) : (ctr cipher y d).length = d.length := by
  induction d using chunk_induction generalizing y with
  | nil => rfl
  | step d hd ih =>
    have hchunk : (d.take 16).length ≤ 16 := List.length_take_le 16 d
    rw [ctr_cons cipher y hd, List.length_append, length_xorbytes (length_trunc _ hchunk).symm, ih, ← List.length_append,
      List.take_append_drop]

/-- A chunk's byte k meets byte k of its keystream block (R8, R85). -/
theorem getElem?_xorbytes_trunc {s : List Byte} (hs : s.length ≤ 16) (b : Block) {k : Nat} (hk : k < s.length) :
    (xorbytes s (trunc b s.length))[k]? = some (s.getD k 0 ^^^ blockByte b k) := by
  simp [xorbytes, trunc, bytesOf, hk, show k < 16 by omega]

/-- Byte k of the output is byte k of the input and byte k mod 16 of the keystream block k / 16 + 1 (R85). -/
theorem getElem?_ctr (cipher : Block → Block) (y : Block) {d : List Byte} {k : Nat} (hk : k < d.length) :
    (ctr cipher y d)[k]? = some (d.getD k 0 ^^^ blockByte (cipher (counterBlock y (k / 16 + 1))) (k % 16)) := by
  induction d using chunk_induction generalizing y k with
  | nil => exact absurd hk (Nat.not_lt_zero k)
  | step d hd ih =>
    have hchunk : (d.take 16).length ≤ 16 := List.length_take_le 16 d
    have hlen : (xorbytes (d.take 16) (trunc (cipher (incr y)) (d.take 16).length)).length = (d.take 16).length :=
      length_xorbytes (length_trunc _ hchunk).symm
    rw [ctr_cons cipher y hd]
    by_cases hfirst : k < 16
    · have hk' : k < (d.take 16).length := by rw [List.length_take]; omega
      rw [List.getElem?_append_left (by rwa [hlen]), getElem?_xorbytes_trunc hchunk _ hk', Nat.div_eq_of_lt hfirst,
        Nat.mod_eq_of_lt hfirst]
      simp [hfirst, counterBlock]
    · have h16 : (d.take 16).length = 16 := by rw [List.length_take]; omega
      rw [List.getElem?_append_right (by omega), hlen, h16, ih (incr y) (by rw [List.length_drop]; omega),
        counterBlock_incr, show (k - 16) / 16 + 1 = k / 16 by omega, show (k - 16) % 16 = k % 16 by omega]
      simp [show 16 + (k - 16) = k by omega]

/-- Settles O19: both by induction along the chunks of the data. -/
theorem ctrByteByByte : Obligations.CtrByteByByte := fun cipher y d =>
  ⟨length_ctr cipher y d, ctr_nil cipher y, fun _ => getElem?_ctr cipher y⟩

/-- `ctr` undoes itself: each byte meets the same keystream byte twice (R85, R88). -/
theorem ctr_ctr (cipher : Block → Block) (y : Block) (d : List Byte) : ctr cipher y (ctr cipher y d) = d := by
  have hlen := length_ctr cipher y d
  apply List.ext_getElem?'
  intro k hk
  have hk : k < d.length := by rw [length_ctr, hlen] at hk; omega
  rw [getElem?_ctr cipher y (hlen ▸ hk), List.getD_eq_getElem?_getD, getElem?_ctr cipher y hk, Option.getD_some,
    BitVec.xor_assoc, BitVec.xor_self, BitVec.xor_zero, List.getD_eq_getElem d 0 hk, List.getElem?_eq_getElem hk]

/-- Settles O20, from the bytes of O19. -/
theorem ctrIsItsOwnInverse : Obligations.CtrIsItsOwnInverse := ctr_ctr

end Sys2Proof.Machine
end

section
/-! PROOF. The commands ENCRYPT and DECRYPT (44_gcm_engine.md R80 to R88): their checks, what each leaves in OUT, TAG and
STATUS, and that the second undoes the first. -/

namespace Sys2Proof.Machine

/-- The regions of ENCRYPT and DECRYPT are valid (R86). -/
def State.regionsValid (s : State) : Bool :=
  regionValid s.bufBytes s.ivAddr s.ivLen && regionValid s.bufBytes s.aadAddr s.aadLen &&
    regionValid s.bufBytes s.inAddr s.inLen && regionValid s.bufBytes s.outAddr s.inLen

/-- OUT overlaps a region the command reads (R86). -/
def State.outOverlaps (s : State) : Bool :=
  regionOverlap s.outAddr s.inLen s.ivAddr s.ivLen || regionOverlap s.outAddr s.inLen s.aadAddr s.aadLen ||
    regionOverlap s.outAddr s.inLen s.inAddr s.inLen

theorem precheck_eq (s : State) :
    precheck s =
      if s.cbszl ≠ 16 then some .invalidBlockSize
      else if s.ivLen = 0 then some .invalidIvLength
      else if !s.regionsValid then some .region
      else if s.outOverlaps then some .overlap
      else none := rfl

section Checks

variable {s : State}

/-- A check that fails names an error (R86). -/
theorem precheck_ne_noError : precheck s ≠ some .noError := by
  rw [precheck_eq]
  split_ifs <;> simp

/-- A failed check of ENCRYPT or DECRYPT ends it with that error, before any cipher call (R86, R95). -/
theorem exec_engine_error {i : Instr} {code : ErrCode} (hi : i = .encrypt ∨ i = .decrypt) (h : precheck s = some code) :
    (∃ t, exec i s = .next t ∧ ErrorEnd s t code) ∧ cipherCalls i s = [] := by
  obtain rfl | rfl := hi
  · exact ⟨⟨_, exec_encrypt_error h, errorEnd_finish s code⟩, by simp [cipherCalls, h]⟩
  · exact ⟨⟨_, exec_decrypt_error h, errorEnd_finish (s.setAuth false false) code⟩, by simp [cipherCalls, h]⟩

/-- ENCRYPT and DECRYPT end with ERR = 0 when every check passes, rekeyed or not (R80, R81). -/
theorem exec_engine_ok {i : Instr} (hi : i = .encrypt ∨ i = .decrypt) (h : precheck s = none) :
    ∃ t, exec i s = .next t ∧ t.status.err = .noError := by
  obtain rfl | rfl := hi
  · exact ⟨_, exec_encrypt_ok h, rfl⟩
  · refine ⟨_, exec_decrypt_ok h, ?_⟩
    unfold decryptRule
    dsimp only
    split <;> rfl

end Checks

/-- Settles O24: the branches of the checks in their order, and how a command ends in each. -/
theorem engineCheckOrder : Obligations.EngineCheckOrder := by
  intro i s hi
  refine ⟨fun hsize => ?_, fun hsize hiv => ?_, fun hsize hiv (hreg : s.regionsValid = false) => ?_,
    fun hsize hiv (hreg : s.regionsValid = true) (hover : s.outOverlaps = true) => ?_,
    fun hsize hiv (hreg : s.regionsValid = true) (hover : s.outOverlaps = false) => ?_⟩
  · exact exec_engine_error hi (by rw [precheck_eq, if_pos hsize])
  · exact exec_engine_error hi (by rw [precheck_eq, if_neg (not_not.2 hsize), if_pos hiv])
  · exact exec_engine_error hi (by rw [precheck_eq, if_neg (not_not.2 hsize), if_neg hiv, hreg]; rfl)
  · exact exec_engine_error hi (by rw [precheck_eq, if_neg (not_not.2 hsize), if_neg hiv, hreg, hover]; rfl)
  · exact exec_engine_ok hi (by rw [precheck_eq, if_neg (not_not.2 hsize), if_neg hiv, hreg, hover]; rfl)

section Results

variable {s t : State} {cipher : Block → Block}

/-- After a MemWrite of `ctr(Y0, IN)` to OUT, OUT holds it and every other byte is unchanged (R29). -/
theorem out_holds_engineText (hbuf : t.buf = (s.memWrite s.outAddr.toNat (engineText cipher s)).buf)
    (hdraw : t.bufDraw = s.bufDraw) :
    t.memRead s.outAddr.toNat s.inLen.toNat = engineText cipher s ∧
      ∀ a, (a < s.outAddr.toNat ∨ s.outAddr.toNat + s.inLen.toNat ≤ a) → t.readByte a = s.readByte a := by
  have hlen := length_engineText cipher s
  refine ⟨?_, fun a ha => ?_⟩
  · rw [memRead_congr hbuf hdraw, ← hlen, memRead_memWrite]
  · rw [readByte_congr hbuf hdraw, readByte_memWrite_outside s _ a _ (by rwa [hlen])]

/-- The tag over no AAD and no text is `Cipher(Y0)` (R62, R82). -/
theorem gcmTag_nil_nil (h y : Block) : gcmTag cipher h y [] [] = cipher y := by
  rw [gcmTag, ghash_nil_nil, BitVec.zero_xor]

theorem memRead_empty (a : Nat) {len : Word} (h : len = 0) : s.memRead a len.toNat = [] := by
  rw [h]
  rfl

/-- A matching tag: AUTHOK, and `ctr(Y0, C)` in OUT and nowhere else (R81). -/
theorem decryptRule_match_result (hk : s.rekeyed = false) (h : decryptTag cipher s = s.tag) :
    let t := decryptRule cipher s
    t.status.authOk = true ∧ t.status.authFail = false ∧
      t.memRead s.outAddr.toNat s.inLen.toNat = engineText cipher s ∧
      ∀ a, (a < s.outAddr.toNat ∨ s.outAddr.toNat + s.inLen.toNat ≤ a) → t.readByte a = s.readByte a := by
  rw [decryptRule_match hk h]
  exact ⟨rfl, rfl, out_holds_engineText rfl rfl⟩

/-- A mismatching tag: AUTHFAIL, and no byte written (R81, R87). -/
theorem decryptRule_mismatch_result (hk : s.rekeyed = false) (h : decryptTag cipher s ≠ s.tag) :
    let t := decryptRule cipher s
    t.status.authOk = false ∧ t.status.authFail = true ∧ SameBuf s t := by
  rw [decryptRule_mismatch hk h]
  exact ⟨rfl, rfl, readByte_congr rfl rfl⟩

/-- Either way DECRYPT ends with ERR = 0 and draws nothing (R26, R81). -/
theorem decryptRule_end (hk : s.rekeyed = false) :
    let t := decryptRule cipher s
    Ended s t .noError ∧ t.draws = s.draws ∧ SameOutside s t := by
  by_cases h : decryptTag cipher s = s.tag
  · rw [decryptRule_match hk h]
    exact ⟨ended_finish .noError rfl rfl, rfl, rfl, rfl, rfl, rfl, rfl, rfl, rfl, rfl⟩
  · rw [decryptRule_mismatch hk h]
    exact ⟨ended_finish .noError rfl rfl, rfl, rfl, rfl, rfl, rfl, rfl, rfl, rfl, rfl⟩

/-- An ENCRYPT that ended with ERR = 0 passed its checks (R86). -/
theorem checksPass_of_encrypt_noError (h : exec .encrypt s = .next t) (herr : t.status.err = .noError) : ChecksPass s := by
  cases hc : precheck s with
  | none => exact (precheck_none_iff s).1 hc
  | some code =>
    cases (exec_encrypt_error hc).symm.trans h
    cases (show code = .noError from herr)
    exact absurd hc precheck_ne_noError

end Results

/-- Settles O21: the updates of a clean ENCRYPT one by one, or an error's end. -/
theorem encryptResult : Obligations.EncryptResult := by
  refine fun s => ⟨fun hp hk => ?_, fun code h => ⟨_, exec_encrypt_error h, errorEnd_finish s code, rfl, rfl⟩⟩
  have hexec := exec_encrypt_ok ((precheck_none_iff s).2 hp)
  rw [encryptRule_eq _ hk] at hexec
  obtain ⟨hop, hdesc, hres⟩ := exec_encrypt_frame hexec
  obtain ⟨hout, hrest⟩ := out_holds_engineText (s := s) (cipher := s.cipher.apply) rfl rfl
  refine ⟨_, hexec, ⟨hout, rfl, fun hin haad => ?_⟩, hrest, ended_finish .noError rfl rfl, rfl, rfl, hdesc, hop, hres, rfl,
    sameOutside_finish .noError ⟨rfl, rfl, rfl, rfl, rfl, rfl, rfl, rfl⟩⟩
  have htext : engineText s.cipher.apply s = [] := by rw [engineText, State.inBytes, memRead_empty _ hin, ctr_nil]
  simp only [State.finish_tag, State.setAuth_tag, State.setTag_tag]
  rw [htext, State.aadBytes, memRead_empty _ haad, gcmTag_nil_nil]
  rfl

/-- Settles O22: the two outcomes of the tag comparison, with what they share, or an error's end. -/
theorem decryptResult : Obligations.DecryptResult := by
  refine fun s => ⟨fun hp hk => ?_, fun code h =>
    ⟨_, exec_decrypt_error h, errorEnd_finish (s.setAuth false false) code, rfl, rfl⟩⟩
  have hexec := exec_decrypt_ok ((precheck_none_iff s).2 hp)
  obtain ⟨hop, hdesc, hres, htag⟩ := exec_decrypt_frame hexec
  obtain ⟨hend, hdraws, houtside⟩ := decryptRule_end (cipher := s.cipher.apply) hk
  exact ⟨_, hexec, ⟨decryptRule_match_result hk, decryptRule_mismatch_result hk⟩, hend, hdesc, hop, hres, htag, hdraws,
    houtside⟩

/-- Settles O25: the DECRYPT computes the ENCRYPT's tag and keystream, so the tags match and `ctr` undoes itself. -/
theorem encryptThenDecrypt : Obligations.EncryptThenDecrypt := by
  intro s t u hks henc herr hpu hku hcipher hiv haad hin htagu
  obtain ⟨hsealed, -⟩ := encryptResult s
  obtain ⟨t', ht', ⟨hout, htag, -⟩, -⟩ := hsealed (checksPass_of_encrypt_noError henc herr) hks
  cases ht'.symm.trans henc
  obtain ⟨hopened, -⟩ := decryptResult u
  obtain ⟨v, hv, ⟨hmatch, -⟩, ⟨-, -, hverr, -⟩, -⟩ := hopened hpu hku
  rw [funext hcipher, hiv, haad, hin, hout] at hmatch
  obtain ⟨hok, hfail, htext, -⟩ := hmatch (htag.symm.trans htagu.symm)
  exact ⟨v, hv, hok, hfail, hverr, htext.trans (ctr_ctr _ _ _)⟩

end Sys2Proof.Machine
end

section
/-! PROOF. The cipher calls of each command, in their order (44_gcm_engine.md R84, 60_exceptions.md R104). -/

namespace Sys2Proof.Machine

section Calls

variable {s : State} {cipher : Block → Block}

@[simp] theorem length_keystreamCalls : (keystreamCalls cipher s).length = chunkCount s.inLen.toNat := by
  simp [keystreamCalls]

/-- The keystream calls count from Y(1) (R84). -/
theorem getElem?_keystreamCalls {k : Nat} (hk : k < chunkCount s.inLen.toNat) :
    (keystreamCalls cipher s)[k]? = some (counterBlock (preCounter cipher s) (k + 1)) := by
  simp [keystreamCalls, hk]

/-- ENCRYPT calls the cipher on 0^128, on Y(1) to Y(n), and last on Y0 (R84). -/
theorem encryptCalls_order :
    (encryptCalls cipher s).length = chunkCount s.inLen.toNat + 2 ∧ (encryptCalls cipher s)[0]? = some 0 ∧
    (∀ k, k < chunkCount s.inLen.toNat →
      (encryptCalls cipher s)[k + 1]? = some (counterBlock (preCounter cipher s) (k + 1))) ∧
    (encryptCalls cipher s)[chunkCount s.inLen.toNat + 1]? = some (preCounter cipher s) := by
  have hcalls : encryptCalls cipher s = 0 :: (keystreamCalls cipher s ++ [preCounter cipher s]) := rfl
  rw [hcalls]
  refine ⟨by simp, rfl, fun k hk => ?_, ?_⟩
  · rw [List.getElem?_cons_succ, List.getElem?_append_left (by simpa using hk), getElem?_keystreamCalls hk]
  · rw [List.getElem?_cons_succ, List.getElem?_append_right (by simp)]
    simp

theorem decryptCalls_match (h : decryptTag cipher s = s.tag) :
    decryptCalls cipher s = 0 :: preCounter cipher s :: keystreamCalls cipher s := by
  rw [decryptCalls, if_pos h]
  rfl

theorem decryptCalls_mismatch (h : decryptTag cipher s ≠ s.tag) : decryptCalls cipher s = [0, preCounter cipher s] := by
  rw [decryptCalls, if_neg h]
  rfl

/-- DECRYPT calls the cipher on 0^128, on Y0, and on Y(1) to Y(n) only with a matching tag (R84). -/
theorem decryptCalls_order :
    (decryptCalls cipher s).length = (if decryptTag cipher s = s.tag then chunkCount s.inLen.toNat + 2 else 2) ∧
    (decryptCalls cipher s)[0]? = some 0 ∧ (decryptCalls cipher s)[1]? = some (preCounter cipher s) ∧
    (decryptTag cipher s = s.tag → ∀ k, k < chunkCount s.inLen.toNat →
      (decryptCalls cipher s)[k + 2]? = some (counterBlock (preCounter cipher s) (k + 1))) := by
  by_cases h : decryptTag cipher s = s.tag
  · rw [decryptCalls_match h, if_pos h]
    exact ⟨by simp, rfl, rfl, fun _ k hk => getElem?_keystreamCalls hk⟩
  · rw [decryptCalls_mismatch h, if_neg h]
    exact ⟨rfl, rfl, rfl, fun hm => absurd hm h⟩

end Calls

/-- Only ENCRYPT and DECRYPT call the cipher (R84). -/
theorem cipherCalls_other {i : Instr} (s : State) (henc : i ≠ .encrypt) (hdec : i ≠ .decrypt) : cipherCalls i s = [] := by
  cases i with
  | encrypt => exact absurd rfl henc
  | decrypt => exact absurd rfl hdec
  | _ => rfl

/-- With a call to make and none outstanding, a step of the engine raises `c_req` with it (R104). -/
theorem step_asks {s : State} {rest : List Event} {b : Block}
    (hev : s.events = .engine :: rest ∨ (s.events = [] ∧ rest = [])) (hseq : s.seq = .busy) (hreq : s.cReq = none)
    (hcall : s.nextCall? = some b) : step s = .next ((s.beginCycle rest).request b) := by
  have hcall' : (s.beginCycle rest).nextCall? = some b := by
    have hcalls := cipherCalls_congr (decode s.cmdl) s rest none s.cReq s.served
    exact (congrArg (·[s.served]?) hcalls).trans hcall
  have hmove : step s = engineMove (s.beginCycle rest) := by
    obtain he | ⟨he, rfl⟩ := hev
    · exact step_cons he
    · exact step_nil he
  exact hmove.trans (engineMove_asks hseq hreq hcall')

/-- Settles O55: the engine's request, the commands without calls, and the two call lists. -/
theorem cipherCallOrder : Obligations.CipherCallOrder := by
  refine ⟨fun s rest b hev hseq hreq hcall => step_asks hev hseq hreq hcall, fun s i => cipherCalls_other s,
    fun s hp => ?_⟩
  have hcheck := (precheck_none_iff s).2 hp
  have henc : cipherCalls .encrypt s = encryptCalls s.cipher.apply s := if_pos hcheck
  have hdec : cipherCalls .decrypt s = decryptCalls s.cipher.apply s := if_pos hcheck
  rw [henc, hdec]
  obtain ⟨hlen, hfirst, hstream, hlast⟩ := encryptCalls_order (s := s) (cipher := s.cipher.apply)
  exact ⟨hlen, hfirst, hstream, hlast, decryptCalls_order⟩

end Sys2Proof.Machine
end

section
/-! PROOF. The control commands (45_control.md R90, R91): the STATUS word a command leaves that wrote neither AUTHOK nor
AUTHFAIL, the reserved words, and CLEAR. -/

namespace Sys2Proof.Machine

/-- The mask 0x300 takes the sticky flags out of a STATUS word, and nothing else (R18). -/
theorem word_and_sticky (err : ErrCode) : ∀ done authOk authFail wbusy accerr busy : Bool,
    Status.word ⟨done, authOk, authFail, err, wbusy, accerr⟩ busy &&& 0x300 =
      Status.word ⟨false, false, false, .noError, wbusy, accerr⟩ false := by
  cases err <;> decide +kernel

/-- The STATUS word of an ended command: ERR in bits 7:4, DONE in bit 1, and the sticky flags (R18, R26). -/
theorem word_of_ended (err : ErrCode) : ∀ wbusy accerr : Bool,
    Status.word ⟨true, false, false, err, wbusy, accerr⟩ false =
      ((0 : BitVec 24) ++ err.code ++ (0b0010 : BitVec 4)) |||
        Status.word ⟨false, false, false, .noError, wbusy, accerr⟩ false := by
  cases err <;> decide +kernel

/-- From AUTHOK = AUTHFAIL = 0, a command that leaves them alone ends with STATUS its code and DONE, or-ed with the old
sticky bits (R26, R90, R91). -/
theorem statusWord_of_ended {s t : State} {code : ErrCode} (hend : Ended s t code) (hauth : SameAuth s t)
    (hok : s.status.authOk = false) (hfail : s.status.authFail = false) :
    t.statusWord = ((0 : BitVec 24) ++ code.code ++ (0b0010 : BitVec 4)) ||| (s.statusWord &&& 0x300) := by
  obtain ⟨hseq, hdone, herr, -, hwbusy, haccerr, -⟩ := hend
  obtain ⟨hokSame, hfailSame⟩ := hauth
  have hidle : t.isBusy = false := by simp [State.isBusy, hseq]
  calc t.statusWord
    _ = Status.word ⟨t.status.done, t.status.authOk, t.status.authFail, t.status.err, t.status.wbusy, t.status.accerr⟩
          t.isBusy := rfl
    _ = Status.word ⟨true, false, false, code, s.status.wbusy, s.status.accerr⟩ false := by
        rw [hdone, hokSame, hok, hfailSame, hfail, herr, hwbusy, haccerr, hidle]
    _ = _ := word_of_ended code _ _
    _ = _ := by rw [State.statusWord, ← word_and_sticky s.status.err]

/-- The three reserved rows have one meaning, whatever the bits of the word (R49, R91). -/
theorem exec_reserved {i : Instr}
    (hi : i = .illegalOp0 ∨ (∃ op, i = .illegalOp8F op) ∨ ∃ op rsv, i = .illegalRsv op rsv) (s : State) :
    exec i s = .next (s.finish .illegalCommand) := by
  obtain rfl | ⟨op, rfl⟩ | ⟨op, rsv, rfl⟩ := hi <;> rfl

/-- Settles O6: a word that is 0 or at least 8 decodes to a reserved row by O5, and a reserved row raises. -/
theorem reservedCommandsRaise : Obligations.ReservedCommandsRaise := by
  intro i s hi
  have hrow : i = .illegalOp0 ∨ (∃ op, i = .illegalOp8F op) ∨ ∃ op rsv, i = .illegalRsv op rsv := by
    obtain h0 | h8 | hrsv | ⟨w, hw, rfl⟩ := hi
    · exact .inl h0
    · exact .inr (.inl h8)
    · exact .inr (.inr hrsv)
    · exact otherWordsAreReserved w (hw.imp_left fun hzero => by simp [hzero])
  have hend : Ended s (s.finish .illegalCommand) .illegalCommand := ended_finish .illegalCommand rfl rfl
  exact ⟨_, exec_reserved hrow s, errorEnd_finish s .illegalCommand, ⟨rfl, rfl⟩, statusWord_of_ended hend ⟨rfl, rfl⟩⟩

/-- In a window without a rekey, CLEAR leaves 0 in every byte of BUF (R90). -/
theorem readByte_cleared {s : State} (hk : s.rekeyed = false) {a : Nat} (ha : a < s.bufBytes) :
    s.cleared.readByte a = 0 := by
  rw [State.readByte, State.cleared_buf, Memory.get?_filled _ ha, Option.getD_some, State.written_clean hk]

/-- Settles O26: every field CLEAR writes is a `written` 0, and the rest is the end of a command that left STATUS alone. -/
theorem clearResult : Obligations.ClearResult := by
  intro s
  have hend : Ended s (s.cleared.finish .noError) .noError := ended_finish .noError rfl rfl
  refine ⟨_, exec_clear s, fun hk => ?_, hend, ⟨rfl, rfl⟩, rfl,
    sameOutside_finish .noError Wrote.cleared.outside, statusWord_of_ended hend ⟨rfl, rfl⟩⟩
  have hbuf : ∀ a, a < s.bufBytes → (s.cleared.finish .noError).readByte a = 0 := fun _ => readByte_cleared hk
  simpa [hk] using hbuf

end Sys2Proof.Machine
end

section
/-! PROOF. Every step answers (60_exceptions.md R100, R101), and a command's error changes nothing but STATUS and SEQ (R95). -/

namespace Sys2Proof.Machine

/-- Only the engine's move could stop, and it does not (R26, R100). -/
theorem runEvent_next (e : Event) (s : State) : ∃ t, runEvent e s = .next t := by
  cases e with
  | engine => exact engineMove_next s
  | host a | cipherAck | blockSize v | setKey u | reset during => exact ⟨_, rfl⟩

/-- Settles O52: a step runs one event, and every event answers. -/
theorem everyStepAnswers : Obligations.EveryStepAnswers := by
  intro s
  obtain ⟨e, rest, he⟩ := step_runs_event s
  obtain ⟨t, ht⟩ := runEvent_next e (s.beginCycle rest)
  exact ⟨t, he.trans ht⟩

/-- Of the ways a command can complete, only the two error ends leave ERR != 0 (R95). -/
theorem Wrote.errorEnd {s u : State} {e : ErrCode} (h : Wrote s u e) (he : e ≠ .noError) :
    ErrorEnd s (u.finish e) e := by
  cases h with
  | error => exact errorEnd_finish s e
  | decryptError => exact errorEnd_finish (s.setAuth false false) e
  | result | product | sealed | opened | rejected | cleared => exact absurd rfl he

/-- Settles O29: every completion step is `finish` after one of the writes of `Wrote`. -/
theorem errorsArePrecise : Obligations.ErrorsArePrecise := by
  intro i s t h herr
  obtain ⟨u, e, hexec, hw⟩ := exec_wrote i s
  cases hexec.symm.trans h
  exact hw.errorEnd herr

end Sys2Proof.Machine
end

section
/-! PROOF. An outstanding cipher request is held until the acknowledge or a reset (60_exceptions.md R104), so a cipher that
stays silent leaves the engine BUSY (93_implementation_defined.md U5). -/

namespace Sys2Proof.Machine

/-- The port stands as before, the engine is as before, and no event is lost. -/
abbrev PortHeld (s t : State) : Prop :=
  t.cReq = s.cReq ∧ t.served = s.served ∧ t.seq = s.seq ∧ t.events = s.events

theorem hostRead_portHeld (off : Offset) (s : State) : PortHeld s (hostRead off s) := by
  obtain h | ⟨-, h⟩ | ⟨v, h⟩ := hostRead_cases off s <;> rw [h] <;> exact ⟨rfl, rfl, rfl, rfl⟩

/-- While BUSY no write issues a command, and only an issue touches the port (R25, R43). -/
theorem hostWrite_portHeld {s : State} (hs : s.seq = .busy) (off : Offset) (w : Word) :
    PortHeld s (hostWrite off w s) := by
  have hbusy : s.isBusy = true := (isBusy_iff s).2 hs
  obtain h | ⟨-, h⟩ | h | ⟨hidle, -⟩ | ⟨hidle, -⟩ := hostWrite_cases off w s
  · rw [h]; exact ⟨rfl, rfl, rfl, rfl⟩
  · rw [h]; exact ⟨rfl, rfl, rfl, rfl⟩
  · rw [h]; exact ⟨rfl, rfl, rfl, rfl⟩
  · exact absurd (hbusy.symm.trans hidle) (by simp)
  · exact absurd (hbusy.symm.trans hidle) (by simp)

/-- An acknowledge answers the outstanding request (R104). -/
theorem cipherAcknowledge_answers {s : State} {b : Block} (hc : s.cReq = some b) :
    cipherAcknowledge s = { s with cReq := none, served := s.served + 1 } := by
  rw [cipherAcknowledge, hc]

section Requested

variable {s t : State} {b : Block} (hs : s.seq = .busy) (hc : s.cReq = some b)
include hs hc

theorem runEvent_portHeld {e : Event} (hack : e ≠ .cipherAck) (hreset : ∀ d, e ≠ .reset d)
    (h : runEvent e s = .next t) : PortHeld s t := by
  cases e with
  | engine => cases (engineMove_holds hs hc).symm.trans h; exact ⟨rfl, rfl, rfl, rfl⟩
  | host a =>
    cases h
    cases a with
    | read off => exact hostRead_portHeld off s
    | write off w => exact hostWrite_portHeld hs off w
  | blockSize v | setKey u => cases h; exact ⟨rfl, rfl, rfl, rfl⟩
  | cipherAck => exact absurd rfl hack
  | reset during => exact absurd rfl (hreset during)

/-- A step takes its event off the list and, but for an acknowledge or a reset, keeps the request (R104). -/
theorem step_portHeld (hack : s.events.head? ≠ some .cipherAck) (hreset : ∀ d, s.events.head? ≠ some (.reset d))
    (h : step s = .next t) : PortHeld (s.beginCycle s.events.tail) t := by
  cases he : s.events with
  | nil =>
    exact runEvent_portHeld (e := .engine) hs hc (by simp) (by simp) ((step_nil he).symm.trans h)
  | cons e rest =>
    rw [he, List.head?_cons] at hack hreset
    exact runEvent_portHeld hs hc (fun heq => hack (congrArg some heq)) (fun d heq => hreset d (congrArg some heq))
      ((step_cons he).symm.trans h)

end Requested

/-- Settles O56: every event but an acknowledge or a reset holds the port, and the acknowledge's step is one equation. -/
theorem cipherRequestHeld : Obligations.CipherRequestHeld := by
  intro s b hs hc
  refine ⟨fun t h hack hreset => ?_, fun rest he => ⟨?_, ?_, ?_⟩⟩
  · obtain ⟨hreq, hserved, hseq, -⟩ := step_portHeld hs hc hack hreset h
    have hreq' : t.cReq = some b := hreq.trans hc
    exact ⟨by simp [State.cReqPin, hreq'], by simp [State.cDin, hreq'], hserved, hseq.trans hs⟩
  · simp [State.cDin, hc]
  · simp [State.cDout, State.cDin, hc]
  · exact (step_cons he).trans (congrArg _ (cipherAcknowledge_answers (s := s.beginCycle rest) hc))

/-- Settles O58, by induction on the number of steps: a step holds the request and freezes the rest of the window. -/
theorem silentCipherHangs : Obligations.SilentCipherHangs := by
  intro k
  induction k with
  | zero => exact fun s b hs hc _ => ⟨s, rfl, hs, hc, rfl, rfl, rfl, rfl, rfl⟩
  | succ k ih =>
    intro s b hs hc hsilent
    obtain ⟨t, hstep⟩ := everyStepAnswers s
    have hack : s.events.head? ≠ some .cipherAck := fun he => (hsilent _ (List.mem_of_mem_head? he)).1 rfl
    have hreset : ∀ d, s.events.head? ≠ some (.reset d) :=
      fun d he => (hsilent _ (List.mem_of_mem_head? he)).2 d rfl
    obtain ⟨hreq, -, hseq, hev : t.events = s.events.tail⟩ := step_portHeld hs hc hack hreset hstep
    have hbusy : t.seq = .busy := hseq.trans hs
    have hsilent' : ∀ e ∈ t.events, e ≠ .cipherAck ∧ ∀ d, e ≠ .reset d :=
      fun e he => hsilent e (List.mem_of_mem_tail (hev ▸ he))
    obtain ⟨u, hrun, hend⟩ := ih t b hbusy (hreq.trans hc) hsilent'
    refine ⟨u, (run_succ k hstep).trans hrun, ?_⟩
    cases step_frozen hs hstep hbusy
    exact hend

end Sys2Proof.Machine
end

section
/-! PROOF. The commands after a rekey in the BUSY window (60_exceptions.md R104, 93_implementation_defined.md U7; log 11):
each value a command writes is free, and its frame is as ever. -/

namespace Sys2Proof.Machine

/-- The free bytes of OUT after a rekey, as many as the input has (U7). -/
def State.freeOut (s : State) : List Byte := (List.range s.inLen.toNat).map (Config.rekeyByte s.draws)

/-- The free value of AUTHFAIL after a rekey, never set beside AUTHOK (R18, U7). -/
def State.freeAuthFail (s : State) : Bool := Config.rekeyAuthFail s.draws && !Config.rekeyAuthOk s.draws

theorem length_freeOut (s : State) : s.freeOut.length = s.inLen.toNat := by
  simp [State.freeOut]

section Writes

variable {s : State} (hk : s.rekeyed = true)
include hk

theorem writeRes_rekeyed (b : Block) : s.writeRes b = s.setRes (Config.rekeyBlock s.draws 0) := by
  rw [State.writeRes_eq, State.written_rekeyed hk]

theorem writeTag_rekeyed (b : Block) : s.writeTag b = s.setTag (Config.rekeyBlock s.draws 1) := by
  rw [State.writeTag_eq, State.written_rekeyed hk]

theorem writeAuth_rekeyed (ok fail : Bool) :
    s.writeAuth ok fail = s.setAuth (Config.rekeyAuthOk s.draws) s.freeAuthFail := by
  rw [State.writeAuth_eq, State.written_rekeyed hk, State.written_rekeyed hk, State.freeAuthFail]

theorem written_engineText_rekeyed (cipher : Block → Block) :
    s.written ((List.range (engineText cipher s).length).map (Config.rekeyByte s.draws)) (engineText cipher s) =
      s.freeOut := by
  rw [State.written_rekeyed hk, length_engineText, State.freeOut]

/-- All an ENCRYPT does in a rekeyed window, update by update (R80, U7). -/
theorem encryptRule_rekeyed (cipher : Block → Block) :
    encryptRule cipher s =
      ((((s.memWrite s.outAddr.toNat s.freeOut).setHidden
        (engineHidden cipher s (engineText cipher s) (chunkCount s.inLen.toNat))).setTag
        (Config.rekeyBlock s.draws 1)).setAuth (Config.rekeyAuthOk s.draws) s.freeAuthFail).finish .noError := by
  rw [encryptRule, State.writeBytes_eq, written_engineText_rekeyed hk,
    writeTag_rekeyed (by simpa using hk), writeAuth_rekeyed (by simpa using hk)]
  rfl

end Writes

/-- After a MemWrite to OUT of as many bytes as the input has, OUT holds them and every other byte is unchanged (R29). -/
theorem memWrite_out_result {s t : State} {bs : List Byte} (hlen : bs.length = s.inLen.toNat)
    (hbuf : t.buf = (s.memWrite s.outAddr.toNat bs).buf) (hdraw : t.bufDraw = s.bufDraw) :
    t.memRead s.outAddr.toNat s.inLen.toNat = bs ∧
      ∀ a, (a < s.outAddr.toNat ∨ s.outAddr.toNat + s.inLen.toNat ≤ a) → t.readByte a = s.readByte a := by
  refine ⟨?_, fun a ha => ?_⟩
  · rw [memRead_congr hbuf hdraw, ← hlen, memRead_memWrite]
  · rw [readByte_congr hbuf hdraw, readByte_memWrite_outside s _ a bs (by rwa [hlen])]

/-- In a rekeyed window the free AUTHFAIL, not the tag, decides whether DECRYPT writes OUT (R87, U7). -/
theorem decryptRule_rekeyed_result {s : State} (cipher : Block → Block) (hk : s.rekeyed = true) :
    let t := decryptRule cipher s
    (t.status.authOk = Config.rekeyAuthOk s.draws ∧ t.status.authFail = s.freeAuthFail ∧
      (s.freeAuthFail = true → SameBuf s t) ∧
      (s.freeAuthFail = false → t.memRead s.outAddr.toNat s.inLen.toNat = s.freeOut ∧
        ∀ a, (a < s.outAddr.toNat ∨ s.outAddr.toNat + s.inLen.toNat ≤ a) → t.readByte a = s.readByte a)) ∧
      Ended s t .noError ∧ t.draws = s.draws ∧ SameOutside s t := by
  have hauth := writeAuth_rekeyed hk (decide (decryptTag cipher s = s.tag)) (decide (decryptTag cipher s ≠ s.tag))
  cases hfail : s.freeAuthFail with
  | true =>
    rw [decryptRule_rejects (hfail ▸ hauth)]
    exact ⟨⟨rfl, rfl, fun _ => readByte_congr rfl rfl, nofun⟩, ended_finish .noError rfl rfl, rfl,
      sameOutside_finish .noError ⟨rfl, rfl, rfl, rfl, rfl, rfl, rfl, rfl⟩⟩
  | false =>
    rw [decryptRule_opens (hfail ▸ hauth), written_engineText_rekeyed hk]
    exact ⟨⟨rfl, rfl, nofun, fun _ => memWrite_out_result (length_freeOut s) rfl rfl⟩, ended_finish .noError rfl rfl, rfl,
      sameOutside_finish .noError ⟨rfl, rfl, rfl, rfl, rfl, rfl, rfl, rfl⟩⟩

/-- Settles O30: the updates of a rekeyed ENCRYPT one by one, and the two ends of a rekeyed DECRYPT. -/
theorem rekeyedWindowIsFree : Obligations.RekeyedWindowIsFree := by
  intro s hp hk
  have hcheck := (precheck_none_iff s).2 hp
  have henc := exec_encrypt_ok hcheck
  have hdec := exec_decrypt_ok hcheck
  obtain ⟨hopD, hdescD, hresD, htagD⟩ := exec_decrypt_frame hdec
  obtain ⟨⟨hok, hfail, hshut, hopen⟩, hend, hdraws, houtside⟩ := decryptRule_rekeyed_result s.cipher.apply hk
  rw [encryptRule_rekeyed hk] at henc
  obtain ⟨hop, hdesc, hres⟩ := exec_encrypt_frame henc
  obtain ⟨hout, hrest⟩ := memWrite_out_result (length_freeOut s) rfl rfl
  exact ⟨⟨_, henc, rfl, hout, hrest, rfl, rfl, ended_finish .noError rfl rfl, hdesc, hop, hres, rfl,
      sameOutside_finish .noError ⟨rfl, rfl, rfl, rfl, rfl, rfl, rfl, rfl⟩⟩,
    _, hdec, hok, hfail, hshut, hopen, hend, hdescD, hopD, hresD, htagD, hdraws, houtside⟩

/-- A unit command that writes RES ends with the free value there (R104). -/
theorem writeRes_finish_rekeyed {s : State} (hk : s.rekeyed = true) (v : Block) :
    let t := (s.writeRes v).finish .noError
    t.res = Config.rekeyBlock s.draws 0 ∧ Ended s t .noError := by
  rw [writeRes_rekeyed hk]
  exact ⟨rfl, ended_finish .noError rfl rfl⟩

theorem exec_gfmul_rekeyed {s : State} (hk : s.rekeyed = true) :
    exec .gfmul s = .next (((s.setRes (Config.rekeyBlock s.draws 0)).setAuth (Config.rekeyAuthOk s.draws)
      s.freeAuthFail).finish .noError) := by
  rw [exec_gfmul, writeRes_rekeyed hk, writeAuth_rekeyed (by simpa using hk)]
  rfl

/-- In a rekeyed window CLEAR leaves a free value in every byte of BUF (U7). -/
theorem readByte_cleared_rekeyed {s : State} (hk : s.rekeyed = true) {a : Nat} (ha : a < s.bufBytes) :
    s.cleared.readByte a = Config.rekeyByte s.draws a := by
  rw [State.readByte, State.cleared_buf, Memory.get?_filled _ ha, Option.getD_some, State.written_rekeyed hk]

/-- Settles O31: each command's completion, where every `written` value is the free one. -/
theorem rekeyedUnitCommandsAreFree : Obligations.RekeyedUnitCommandsAreFree := by
  intro s hk
  refine ⟨⟨_, exec_gfmul_rekeyed hk, rfl, rfl, rfl, ended_finish .noError rfl rfl⟩,
    ⟨_, exec_incr s, writeRes_finish_rekeyed hk _⟩,
    fun haad hin => ⟨_, exec_ghash_ok (ghashCheck_valid haad hin), writeRes_finish_rekeyed hk _⟩,
    fun hne hiv => ⟨_, exec_y0derive_ok (y0Check_valid hne hiv), writeRes_finish_rekeyed hk _⟩,
    _, exec_clear s, ?_⟩
  have hclear : (∀ a, a < s.bufBytes → (s.cleared.finish .noError).readByte a = Config.rekeyByte s.draws a) ∧
      Ended s (s.cleared.finish .noError) .noError :=
    ⟨fun _ => readByte_cleared_rekeyed hk, ended_finish .noError rfl rfl⟩
  simpa [hk] using hclear

end Sys2Proof.Machine
end

section
/-! PROOF. An IDLE core waits for a write to CMD (70_reset_and_hazards.md R112). -/

namespace Sys2Proof.Machine

/-- Only CMD's offset names CMD (R10). -/
theorem ne_cmd_of_offset {off : Offset} {r : Reg} (hr : regRows.lookup off.toNat = some r) (hne : off ≠ 0x008) :
    r ≠ .cmd := by
  rintro rfl
  exact hne (BitVec.eq_of_toNat_eq
    (regRows_inj (off.toNat, .cmd) (mem_regRows hr) (0x008, .cmd) (by decide) rfl))

/-- No register write but an issue moves the sequencer (R25). -/
theorem writeReg_seq {r : Reg} (hne : r ≠ .cmd) (s : State) (w : Word) : (s.writeReg w r).seq = s.seq := by
  cases r with
  | cmd => exact absurd rfl hne
  | _ => rfl

theorem hostRead_seq (off : Offset) (s : State) : (hostRead off s).seq = s.seq := by
  obtain h | ⟨-, h⟩ | ⟨v, h⟩ := hostRead_cases off s <;> rw [h] <;> rfl

/-- With an `engine` event first, or with no event left, the step is the engine's move (log 2). -/
theorem step_engine {s : State} {rest : List Event} (hev : s.events = .engine :: rest ∨ (s.events = [] ∧ rest = [])) :
    step s = engineMove (s.beginCycle rest) := by
  obtain he | ⟨he, rfl⟩ := hev
  · exact step_cons he
  · exact step_nil he

section Idle

variable {s t : State} (hs : s.seq = .idle)
include hs

/-- Away from CMD a write is refused, goes to BUF, or goes to a register that moves no sequencer (R35 to R37). -/
theorem hostWrite_stays_idle {off : Offset} (hne : off ≠ 0x008) (w : Word) : (hostWrite off w s).seq = .idle := by
  by_cases hmap : MappedAt s.bufBytes off.toNat
  · obtain ⟨a, ht, -⟩ | ⟨r, hr⟩ := mapped_cases hmap
    · have hwrite := hostAccess_write_buf ht w
      rw [if_neg (by simp [State.isBusy, hs])] at hwrite
      exact (congrArg State.seq hwrite).trans hs
    · have hwrite := hostAccess_write_idle hr hs w
      exact (congrArg State.seq hwrite).trans ((writeReg_seq (ne_cmd_of_offset hr hne) s w).trans hs)
  · have hwrite := hostAccess_write_refused ((not_mappedAt_iff _ _).1 hmap) w
    exact (congrArg State.seq hwrite).trans hs

theorem runEvent_stays_idle {e : Event} (hne : ∀ w, e ≠ .host (.write 0x008 w)) (h : runEvent e s = .next t) :
    t.seq = .idle := by
  cases e with
  | engine => cases (engineMove_idle hs).symm.trans h; exact hs
  | host a =>
    cases h
    cases a with
    | read off => exact (hostRead_seq off s).trans hs
    | write off w => exact hostWrite_stays_idle hs (fun hoff => hne w (hoff ▸ rfl)) w
  | cipherAck => cases h; unfold cipherAcknowledge; split <;> exact hs
  | blockSize v | setKey u => cases h; exact hs
  | reset during => cases h; rcases during with _ | _ | _ <;> rfl

end Idle

/-- Settles O35: the engine's idle move, and the events one by one. -/
theorem idleEngineWaits : Obligations.IdleEngineWaits := by
  refine ⟨rfl, fun s rest hs hev => ?_, fun s t hs hcmd h => ?_⟩
  · exact (step_engine hev).trans (engineMove_idle (s := s.beginCycle rest) hs)
  · cases he : s.events with
    | nil => exact runEvent_stays_idle (s := s.beginCycle []) hs (e := .engine) (by simp) ((step_nil he).symm.trans h)
    | cons e rest =>
      have hne : ∀ w, e ≠ .host (.write 0x008 w) := fun w heq => hcmd w (by rw [he, heq, List.head?_cons])
      exact runEvent_stays_idle (s := s.beginCycle rest) hs hne ((step_cons he).symm.trans h)

end Sys2Proof.Machine
end

section
/-! PROOF. Reset (70_reset_and_hazards.md R110, R111). -/

namespace Sys2Proof.Machine

/-- A reset cycle leaves the reset values, whatever access is made in it; only `h_rdata` can tell (R110, R111). -/
theorem resetCycle_eq (during : Option Access) (s : State) :
    ∃ v, resetCycle during s = { s.applyReset with hRdata := v } := by
  rcases during with _ | _ | _ <;> exact ⟨_, rfl⟩

theorem statusWord_reset : State.reset.statusWord = 0 := by decide

/-- Settles O48: every state that a reset cycle leaves holds the values of the table, and State.reset is one of them: what
a reset leaves where no free value was drawn before. -/
theorem resetValues : Obligations.ResetValues := by
  unfold Obligations.ResetValues
  intro isReset
  have hreset : ∀ (s : State) (v : Option Word), isReset { s.applyReset with hRdata := v } := by
    intro s v
    have hword := (statusWord_congr (s := State.reset) (t := { s.applyReset with hRdata := v }) rfl rfl).trans
      statusWord_reset
    exact ⟨rfl, hword, rfl, rfl, rfl, rfl, rfl, rfl, rfl, rfl, rfl, rfl, rfl, rfl, rfl, rfl, rfl, rfl, rfl, rfl, rfl, rfl,
      rfl, rfl, fun _ => rfl, readValue_visible (r := .id) rfl rfl _, readValue_visible (r := .bufsz) rfl rfl _,
      readValue_visible (r := .cmd) rfl rfl _, readValue_visible (r := .cbsz) rfl rfl _⟩
  refine ⟨hreset { State.reset with draws := 0 } none, fun s during rest he => ?_⟩
  obtain ⟨v, hv⟩ := resetCycle_eq during (s.beginCycle rest)
  rw [step_cons he, runEvent, hv]
  exact ⟨_, rfl, hreset _ v, rfl, rfl, rfl, rfl, rfl⟩

/-- Settles O49: a reset cycle forgets the access, but for the free value that a read puts on `h_rdata`. -/
theorem accessDuringReset : Obligations.AccessDuringReset := fun _ _ _ => ⟨rfl, rfl⟩

/-- Settles O50: a reset cycle leaves the invariant, and State.reset is a state that one leaves. -/
theorem resetMeetsInvariant : Obligations.ResetMeetsInvariant :=
  resetCycle_inv none { State.reset with draws := 0 }

end Sys2Proof.Machine
end

section
/-! PROOF. A BUSY window whose requests are all answered completes (70_reset_and_hazards.md R125). -/

namespace Sys2Proof.Machine

theorem run_one (s : State) : Host.Core.run core 1 s = step s := by
  obtain ⟨t, hstep⟩ := everyStepAnswers s
  exact (run_succ 0 hstep).trans hstep.symm

/-- Calls are left to make while fewer are answered than the command makes (R84). -/
theorem exists_nextCall {s : State} (h : s.served < (cipherCalls (decode s.cmdl) s).length) :
    ∃ b, s.nextCall? = some b := ⟨_, List.getElem?_eq_getElem h⟩

section Window

variable {s : State} {rest : List Event} (hs : s.seq = .busy) (hc : s.cReq = none)
include hs hc

/-- A request and its acknowledge, two steps, count one call and leave the rest of the window as it was (R104; log 14). -/
theorem run_answers_call (he : s.events = .engine :: .cipherAck :: rest)
    (hcalls : s.served < (cipherCalls (decode s.cmdl) s).length) (k : Nat) :
    Host.Core.run core (k + 2) s =
      Host.Core.run core k { s with events := rest, hRdata := none, served := s.served + 1 } := by
  obtain ⟨b, hcall⟩ := exists_nextCall hcalls
  have hask := step_asks (.inl he) hs hc hcall
  have hack : step ((s.beginCycle (.cipherAck :: rest)).request b) =
      .next { s with events := rest, hRdata := none, served := s.served + 1 } := by
    rw [step_cons (rest := rest) rfl, runEvent, cipherAcknowledge_answers rfl, ← hc]
    rfl
  rw [run_succ (k + 1) hask, run_succ k hack]

/-- By induction on the calls left: none left, the engine completes; otherwise one is answered in two steps. -/
theorem run_answered_window {n : Nat} (hcalls : (cipherCalls (decode s.cmdl) s).length = s.served + n)
    (he : s.events = (List.replicate n [Event.engine, Event.cipherAck]).flatten ++ Event.engine :: rest) :
    Host.Core.run core (2 * n + 1) s =
      exec (decode s.cmdl) { s with events := rest, hRdata := none, served := s.served + n } := by
  induction n generalizing s with
  | zero => exact (run_one s).trans (stepRunsDecodedCommand s rest (.inl he) hs hc hcalls.le)
  | succ n ih =>
    have hleft : s.served + (n + 1) = s.served + 1 + n := by omega
    rw [List.replicate_succ, List.flatten_cons] at he
    rw [show 2 * (n + 1) + 1 = (2 * n + 1) + 2 by omega, run_answers_call hs hc he (by omega), hleft]
    exact ih (s := { s with events := _, hRdata := none, served := s.served + 1 }) hs hc
      ((congrArg List.length (cipherCalls_congr (decode s.cmdl) s _ none s.cReq _)).trans (hcalls.trans hleft)) rfl

end Window

/-- Settles O57: the run up to the completion step, which ends as every command ends. -/
theorem answeredWindowCompletes : Obligations.AnsweredWindowCompletes := by
  intro s n rest hs hc hcalls he
  have hrun := run_answered_window hs hc hcalls he
  obtain ⟨t, code, hexec, ⟨hseq, hdone, -⟩, -⟩ :=
    everyCommandEndsIdle (decode s.cmdl) { s with events := rest, hRdata := none, served := s.served + n }
  exact ⟨hrun, t, hrun.trans hexec, hseq, hdone⟩

end Sys2Proof.Machine
end
